-- ==== Sys2Proof/Word.lean ====
section
/-! DEFINITION. The words of the hub's lanes and the tables of fixed length (10_message_and_record_formats.md). -/

namespace Sys2Proof

/-- One byte of a service lane. -/
abbrev Byte := BitVec 8

/-- A two-byte field, sent most significant byte first. -/
abbrev Half := BitVec 16

/-- Spokes S0 to S31. -/
abbrev SpokeId := Fin 32

/-- Feeds 0 to 23; feed `f` is slot `f % 4` of carrier port `f / 4`. -/
abbrev FeedId := Fin 24

/-- Carrier ports CP0 to CP5. -/
abbrev PortId := Fin 6

/-- Cell positions 0 to 3. -/
abbrev CellPos := Fin 4

/-- Plan slots 0 to 7. -/
abbrev SlotId := Fin 8

/-- Node classes 0 to 7. -/
abbrev NodeClass := Fin 8

/-- Watch groups 0 to 7. -/
abbrev GroupId := Fin 8

/-- Alarm channels 0 to 15; channel 15 is the most urgent. -/
abbrev ChannelId := Fin 16

/-- Store pages 0 to 3. -/
abbrev PageId := Fin 4

/-- Store records 0 to 15; record `r` lies on page `r / 4` (R142). -/
abbrev RecordId := Fin 16

/-- A table filled from its indices. -/
def tabulate {α : Type} {n : Nat} (f : Fin n → α) : Vector α n :=
  ⟨⟨(List.finRange n).map f⟩, by simp⟩

/-- A table changed entry by entry. -/
def mapTable {α β : Type} {n : Nat} (f : α → β) (v : Vector α n) : Vector β n :=
  ⟨⟨v.toList.map f⟩, by simp⟩

/-- The entry `i` of a table replaced by its image. -/
def update {α : Type} {n : Nat} (v : Vector α n) (i : Fin n) (f : α → α) : Vector α n :=
  v.set i (f v[i])

end Sys2Proof
end

