-- ==== Sys2Proof/Syntax.lean ====
section
/-! DEFINITION. The hub's steps: one constructor of `Instr` for each row of spec/opcode_table.json.
Operands of management commands are the bytes of their body (R169, R170); the tag is the message's. -/

namespace Sys2Proof

/-- The five fault kinds (06, section 6.1), in the order of R172's code list. -/
inductive FaultKind where
  | frameErrors | uplinkOverload | nodeSilent | nodeFault | opticalLow
deriving DecidableEq, Repr

/-- One turn of the present frame boundary: what one block does there on its own account (R1).
The manual leaves the order of the turns open (R42, R91, R92, R125, R154). -/
inductive Turn where
  /-- one taking by the report taker (R36) -/
  | report
  /-- the raise of one spoke's training frames elapsed (R30, R32) -/
  | train (spoke : SpokeId)
  /-- one spoke's report to the Cutover Engine that its settle ran out (R28) -/
  | settleEnd (spoke : SpokeId)
  /-- one spoke's health poll falling due (R40) -/
  | poll (spoke : SpokeId)
  /-- one watch group's change at the end of its dwell (R98, R99) -/
  | group (group : GroupId)
  /-- the Cutover Engine's step (R83, R84) -/
  | cutover
  /-- the Fault Qualifier's taking of the boundary for one spoke, all its kinds (R114, R119) -/
  | evaluate (spoke : SpokeId)
  /-- the Capture Unit's event at a boundary where a collection in progress ends (R107) -/
  | captureEnd
  /-- the Capture Unit's event at a boundary where no collection is in progress (R107) -/
  | captureStart
  /-- the end of the store engine's operation, with its read-back (R147, R151, R152, R153) -/
  | storeEnd (readsBack : Bool)
  /-- the abandoning of a starved assembly (R156) -/
  | abandon
deriving DecidableEq, Repr

/-- One entry of PLAN CELL: byte 0 holds spoke, cell position and the EMPTY mark (section 10.3). -/
structure CellEntry where
  place : Byte
  feed  : Byte
  down  : Byte
  up    : Byte
  trim  : Byte
deriving DecidableEq, Repr

/-- One pair of PLAN EXPECT (section 10.3). -/
structure ExpectPair where
  spoke : Byte
  cls   : Byte
deriving DecidableEq, Repr

/-- The steps of the hub, in the order of spec/opcode_table.json. -/
inductive Instr where
  | powerOnReset (strap : Fin 8)
  | frameBoundary (before : List Turn)
  | timebaseRelock (micros : Nat) (before : List Turn)
  | carrierPortLock (port : PortId)
  | carrierPortLoss (port : PortId)
  | spokeLinkLock (spoke : SpokeId)
  | spokeLinkLoss (spoke : SpokeId)
  | sampleGroupDamaged (spoke : SpokeId) (periods : Nat)
  | nodeRequestSend (spoke : SpokeId)
  | reportComplete (spoke : SpokeId) (bytes : List Byte)
  | reportTake
  | helloRequestRepeat (spoke : SpokeId)
  | trainingLimit (spoke : SpokeId)
  | settleEnd (spoke : SpokeId)
  | healthPollDue (spoke : SpokeId)
  | crowdedEntry (group : GroupId)
  | groupCalm (group : GroupId)
  | cutoverStep
  | persistQualify (spoke : SpokeId) (kind : FaultKind)
  | qualifierWindowEnd (spoke : SpokeId) (kind : FaultKind)
  | captureCollectionEnd
  | captureCollectionStart
  | captureNoticeEnqueue
  | alarmPresentation
  | startupReadEnd
  | storeEraseEnd (readsBack : Bool)
  | storeWriteEnd (readsBack : Bool)
  | storeLockEnd
  | commandComplete (bytes : List Byte)
  | assemblyAbandon
  | commandUnknown (tag : Byte) (code : BitVec 6)
  | commandMalformed (tag : Byte) (code : BitVec 6)
  | commandResponseTaken
  | resyncResponseTaken
  | messageLeaves
  | hubResetEffect
  | feedSet (tag feed state operator band level : Byte)
  | feedRead (tag feed : Byte)
  | spokeIsolate (tag spoke : Byte)
  | spokeRestore (tag spoke : Byte)
  | spokeQuiet (tag spoke : Byte)
  | spokeWake (tag spoke : Byte)
  | spokeRetrain (tag spoke : Byte)
  | spokeRearm (tag spoke : Byte)
  | spokeRead (tag spoke : Byte)
  | pollSet (tag : Byte) (period : Half)
  | planOpen (tag slot : Byte)
  | planEdit (tag slot : Byte)
  | planCell (tag slot : Byte) (entries : List CellEntry)
  | planExpect (tag slot : Byte) (pairs : List ExpectPair)
  | planClose (tag slot : Byte)
  | planDrop (tag slot : Byte)
  | planRead (tag slot spoke : Byte)
  | trimPoint (tag slot spoke pos : Byte)
  | trim (tag : Byte) (values : List Byte)
  | bankBind (tag bank slot : Byte)
  | bankRelease (tag bank : Byte)
  | sweepOrder (tag : Byte) (order : List Byte)
  | cutover (tag target interval settle fold : Byte)
  | halt (tag : Byte)
  | fold (tag : Byte)
  | cutoverRead (tag : Byte)
  | watchSet (tag group : Byte) (members : BitVec 32) (high low : BitVec 24)
      (dwell reliefPresent target interval settle : Byte)
  | watchOff (tag group : Byte)
  | watchRead (tag group : Byte)
  | meterRead (tag : Byte) (spokes : List Byte)
  | capture (tag spoke pos kind mode : Byte) (interval : Half)
  | captureStop (tag : Byte)
  | qualify (tag kind mode count window unit action : Byte) (level : Half)
  | qualifyRead (tag kind spoke : Byte)
  | alarmEnable (tag : Byte) (enable disable : Half)
  | alarmMask (tag : Byte) (mask unmask : Half)
  | alarmTrack (tag setting : Byte)
  | alarmDone (tag channel : Byte)
  | alarmRead (tag channel index : Byte)
  | storeRead (tag record : Byte)
  | storeErase (tag page : Byte)
  | storeWrite (tag record c0 c1 c2 c3 : Byte)
  | storeLock (tag : Byte)
  | resync (tag : Byte)
  | hubStatus (tag : Byte)
  | hubReset (tag : Byte)
  | inboundByte (byte : Byte)
  | reportLeadByte (spoke : SpokeId)
deriving DecidableEq, Repr

end Sys2Proof
end

