-- ==== Sys2Proof/Machine/State.lean ====
section
/-! DEFINITION. Everything the manual gives the hub, as plain data, and the state after power-on reset. -/

namespace Sys2Proof.Machine

/-! ## Stops -/

/-- Why a step could stop with a fault. The manual names no stop of the hub (a refused command is answered with a status,
R161), so no meaning raises this reason: safe. -/
inductive Fault where
  /-- raised by no meaning: safe -/
  | unused
deriving DecidableEq, Repr

/-- Why a step could be refused. -/
inductive Refusal where
  /-- raised by an arm of `exec` whose row has no meaning yet (none has): safe -/
  | notModelled (mnemonic : String)
deriving DecidableEq, Repr

/-! ## Timebase and carrier ports (01) -/

/-- The reference state of the Timebase (R2). -/
inductive Reference where
  | locked | free
deriving DecidableEq, Repr

/-! ## Samples and the Distribution Fabric (01) -/

/-- One complex sample; each component from -32767 to 32767 (section 1.2). -/
structure Sample where
  i : Int
  q : Int
deriving DecidableEq, Repr

/-- The zero sample. -/
def Sample.zero : Sample := ⟨0, 0⟩

/-- What the receivers deliver in one sample period (an input, log 5): downlink samples by feed and uplink samples by
spoke and position. What is not listed arrives as a zero sample (an idle or damaged group, R5, R15). -/
structure SamplePeriod where
  feeds  : List (FeedId × Sample)
  spokes : List ((SpokeId × CellPos) × Sample)
deriving DecidableEq, Repr

/-- A feed's state (section 1.3). -/
inductive FeedState where
  | unused | active | muted
deriving DecidableEq, Repr

/-- A feed record (section 1.3). -/
structure FeedRec where
  state    : FeedState
  operator : Fin 8
  band     : Fin 16
  /-- nominal level code, 0.5 dB steps -/
  level    : Fin 81
deriving DecidableEq, Repr

/-- A cell of a plan, and of a carry or sum set (section 3.2, R10). -/
structure Cell where
  feed : FeedId
  /-- downlink attenuation code -/
  down : Fin 64
  /-- uplink attenuation code -/
  up   : Fin 64
  /-- delay trim in sample periods -/
  trim : Fin 256
deriving DecidableEq, Repr

/-- Four optional cells, one for each cell position: a spoke's entry of a plan, its carry set or its sum set. -/
abbrev Cells := Vector (Option Cell) 4

/-- One delay line per cell position of each spoke: the samples written, newest first, without the zero samples at the
old end; a line holds 256 (R13). -/
abbrev Lines := Vector (Vector (List Sample) 4) 32

/-- The Distribution Fabric's latch, lines, measurements in hand and outputs. -/
structure Fabric where
  carry     : Vector Cells 32
  sum       : Vector Cells 32
  feedState : Vector FeedState 24
  downLines : Lines
  upLines   : Lines
  /-- feeds whose sum held a saturated sample in the frame in progress (R18) -/
  saturated : Vector Bool 24
  /-- per spoke, the sum of the squares of the components received in the frame in progress (R19) -/
  energySum : Vector Nat 32
  /-- sample periods of the frame in progress so far -/
  periods   : Nat
  /-- spokes whose link was locked at the boundary that opened the frame in progress (R19) -/
  lockedAtOpen : Vector Bool 32
  /-- the sample each cell position sends (R14) -/
  spokeOut  : Vector (Vector Sample 4) 32
  /-- the sample each outbound feed slot carries (R17) -/
  feedOut   : Vector Sample 24
deriving DecidableEq, Repr

/-! ## Spokes (02) -/

/-- Requests the hub sends a node (section 2.1). -/
inductive Request where
  | hello | healthPoll
deriving DecidableEq, Repr

/-- The Spoke Link Interface's side of one link (R22). -/
structure Link where
  locked   : Bool
  /-- requests made and not yet begun, oldest first, at most one of each kind -/
  requests : List Request
  /-- the request that the outbound lane took last and has not abandoned -/
  sending  : Option Request
  /-- sample periods left of a damaged group (R23) -/
  damaged  : Nat
deriving DecidableEq, Repr

/-- Spoke states (section 2.3). -/
inductive SpokeState where
  | dark | training | live | quiet | isolated
deriving DecidableEq, Repr

/-- Reasons of an isolate hold (section 2.2). -/
inductive Reason where
  | admin | fault (kind : FaultKind) | noHello | classMismatch | classUnknown
deriving DecidableEq, Repr

/-- The hold of a spoke (section 2.2). -/
inductive Hold where
  | none | quiet | isolate (reason : Reason)
deriving DecidableEq, Repr

/-- Node fault codes (section 2.6), in the order of R174. -/
inductive FaultCode where
  | overheat | vswr | supply | amplifier | internal
deriving DecidableEq, Repr

/-- A node's supply (section 2.2). -/
inductive Supply where
  | ok | low
deriving DecidableEq, Repr

/-- Report kinds; UNREADABLE names a discarded report that is damaged (section 2.2, R35), and a damaged report whose kind
byte names no kind (log 12). -/
inductive ReportKind where
  | hello | health | fault | clear | unreadable
deriving DecidableEq, Repr

/-- A completed report: what it says, or its kind and that it is damaged (R34, R175). -/
inductive Report where
  | hello (cls : NodeClass)
  | health (temperature optical : Int) (supply : Supply)
  | fault (code : FaultCode)
  | clear (code : FaultCode)
  | damaged (kind : ReportKind)
deriving DecidableEq, Repr

/-- One record of the spoke table (section 2.2). -/
structure SpokeRec where
  state       : SpokeState
  hold        : Hold
  knownClass  : Option NodeClass
  /-- training frames elapsed -/
  elapsed     : Nat
  /-- settle count -/
  settle      : Nat
  /-- frames to next poll -/
  nextPoll    : Nat
  outstanding : Bool
  missed      : Nat
  /-- active node fault codes, one bit for each (section 10.3) -/
  faults      : BitVec 5
  temperature : Option Int
  /-- optical receive level in 0.1 dBm -/
  optical     : Option Int
  supply      : Option Supply
  queue       : List Report
  /-- the bytes of a report that is arriving; none when no assembly is in progress -/
  assembly    : Option (List Byte)
  overrun     : Bool
  firstDiscarded : Option ReportKind
deriving DecidableEq, Repr

/-! ## Plans (03) -/

/-- States of a plan slot (section 3.1). -/
inductive SlotState where
  | empty | loading | ready | rejected
deriving DecidableEq, Repr

/-- Checks of admission (section 3.2), in the order of the table of reasons. -/
inductive FailReason where
  | feedUnused | feedTwice | noClass | classAbsent | capacity | band | operator | level | fanout
deriving DecidableEq, Repr

/-- A failure record (section 3.2). -/
structure Failure where
  spoke  : SpokeId
  pos    : Option CellPos
  reason : FailReason
deriving DecidableEq, Repr

/-- A plan's entry for one spoke (section 3.2). -/
structure Entry where
  expect : Option NodeClass
  cells  : Cells
deriving DecidableEq, Repr

/-- A plan: one entry for each spoke. -/
abbrev Plan := Vector Entry 32

/-- A plan slot (R50). -/
structure PlanSlot where
  state   : SlotState
  plan    : Plan
  failure : Option Failure
deriving DecidableEq, Repr

/-- The part of a cell that the trim pointer names (section 3.5). -/
inductive Part where
  | dl | ul | delay
deriving DecidableEq, Repr

/-- The trim pointer when it is set (R68). -/
structure Pointer where
  slot  : SlotId
  spoke : SpokeId
  pos   : CellPos
  part  : Part
deriving DecidableEq, Repr

/-- The staging record (section 3.5). -/
structure Staging where
  down : Option (Fin 64)
  up   : Option (Fin 64)
deriving DecidableEq, Repr

/-! ## Banks and the Cutover Engine (04) -/

/-- Where a cutover came from (R75). -/
inductive Origin where
  | command | relief (group : GroupId)
deriving DecidableEq, Repr

/-- Engine states (R75). -/
inductive EngineState where
  | idle | stepping | halting
deriving DecidableEq, Repr

/-- Parameters of the last cutover accepted (R75). -/
structure Params where
  target   : Fin 33
  interval : Nat
  settle   : Fin 64
  fold     : Bool
  origin   : Origin
deriving DecidableEq, Repr

/-- The current step (R75). -/
structure CurrentStep where
  spoke    : SpokeId
  up       : Bool
  complete : Bool
  /-- frames since it began, held at 255 -/
  frames   : Nat
deriving DecidableEq, Repr

/-- The Cutover Engine (R75). -/
structure Engine where
  bankA   : Option SlotId
  bankB   : Option SlotId
  line    : Fin 33
  order   : Vector SpokeId 32
  state   : EngineState
  params  : Option Params
  current : Option CurrentStep
deriving DecidableEq, Repr

/-! ## Crowd watch and capture (05) -/

/-- A load meter (R94). -/
structure Meter where
  value : Nat
  stale : Bool
deriving DecidableEq, Repr

/-- States of a watch group (section 5.2). -/
inductive GroupState where
  | off | calm | rising | crowded | falling
deriving DecidableEq, Repr

/-- A group's relief parameters (section 5.2). -/
structure Relief where
  target   : Fin 33
  interval : Nat
  settle   : Fin 64
deriving DecidableEq, Repr

/-- The relief state of a group; the last three are BLOCKED with its reason (section 5.2). -/
inductive ReliefState where
  | none | fired | busy | unbound | atTarget
deriving DecidableEq, Repr

/-- A watch group record (section 5.2). -/
structure Group where
  /-- bit s for spoke s -/
  members : BitVec 32
  high    : Nat
  low     : Nat
  dwell   : Nat
  relief  : Option Relief
  state   : GroupState
  remaining : Nat
  reliefState : ReliefState
deriving DecidableEq, Repr

/-- Kinds of capture (section 5.4). -/
inductive CaptureKind where
  | power | raw
deriving DecidableEq, Repr

/-- What a capture looks at. -/
structure Target where
  spoke : SpokeId
  pos   : CellPos
  kind  : CaptureKind
deriving DecidableEq, Repr

/-- The continuous request (R105). -/
structure Continuous where
  target   : Target
  interval : Nat
  /-- frames to the next collection -/
  next     : Nat
deriving DecidableEq, Repr

/-- A collection in progress (R105), with what it has gathered (R108). -/
structure Collection where
  target : Target
  /-- the frame number at which it began -/
  frame  : Half
  /-- it was begun for the continuous request, or while that request named the same target (R107) -/
  forContinuous : Bool
  /-- the spoke was LIVE when it began and has not left LIVE since (R109) -/
  live   : Bool
  /-- the level of R108's carry set for the frame; none is the mark ZERO -/
  downlink : Option Int
  /-- the sum of the powers of the samples received -/
  powerSum : Nat
  /-- how many samples were received -/
  samplesSeen : Nat
  /-- the largest power of a sample -/
  powerPeak : Nat
  /-- the first 32 samples, oldest first -/
  firstSamples : List Sample
deriving DecidableEq, Repr

/-- The measured part of a result (R108). -/
inductive Measured where
  | power (mean peak : Nat) (downlink : Option Int)
  | raw (samples : List Sample)
deriving DecidableEq, Repr

/-- A capture result (R109). -/
structure Result where
  target   : Target
  frame    : Half
  servedSingle : Bool
  servedContinuous : Bool
  complete : Bool
  measured : Measured
deriving DecidableEq, Repr

/-- The Capture Unit (R105). -/
structure Capture where
  single     : Option Target
  continuous : Option Continuous
  collection : Option Collection
  buffer     : Option Result
  missed     : Nat
deriving DecidableEq, Repr

/-! ## Fault qualification (06) -/

/-- Qualifier modes (section 6.2). -/
inductive Mode where
  | immediate | persist | count | duration
deriving DecidableEq, Repr

/-- Frames in one unit, by its code (section 10.3). -/
abbrev UnitCode := Fin 4

/-- The settings of one kind (section 6.2). -/
structure Settings where
  mode    : Mode
  n       : Nat
  window  : Nat
  unit    : UnitCode
  /-- action ISOLATE (REPORT otherwise) -/
  isolate : Bool
  /-- energy level or optical floor; none for a kind that has no level (R115) -/
  level   : Option Int
deriving DecidableEq, Repr

/-- States of a qualifier record (R116). -/
inductive QualState where
  | idle | armed | qualified | measuring
deriving DecidableEq, Repr

/-- A qualifier record (R116). -/
structure QualRec where
  state    : QualState
  seen     : Bool
  count    : Nat
  window   : Nat
  held     : Nat
  measured : Nat
deriving DecidableEq, Repr

/-! ## Alarm channels (07) -/

/-- The detail of a raise (R131, R172). -/
inductive Detail where
  | none
  | faultCodes (codes : BitVec 5)
  | isolation (reason : Reason)
  | energy (e : Nat)
  | missedPolls (n : Nat)
  | optical (level : Int)
  | errors (n : Nat)
  | overrun (kind : ReportKind)
  | crowdHigh (load : Nat) (relief : ReliefState)
  | crowdLow (load : Nat)
  | cutoverEnd (halted : Bool) (line : Fin 33) (folded : Bool) (origin : Origin)
  | discardedTag (tag : Byte)
  | storeEnd (op place : Nat) (failed : Bool)
  | duration (kind : FaultKind) (length : Nat) (unit : UnitCode) (cutShort : Bool)
  | silentPort
  | clip
deriving DecidableEq, Repr

/-- A source list entry (R129). -/
structure SourceEntry where
  source : Option Nat
  first  : Half
  count  : Nat
  detail : Detail
deriving DecidableEq, Repr

/-- A channel record (R128); it is pending exactly when its list holds an entry (R129). -/
structure Channel where
  enabled   : Bool
  masked    : Bool
  inService : Bool
  list      : List SourceEntry
deriving DecidableEq, Repr

/-! ## Entitlement store (08) -/

/-- An operator record's fields (R142). -/
structure OperatorRec where
  /-- permitted carrier ports, bit p for port p -/
  ports  : BitVec 6
  /-- permitted band classes, bit b for class b -/
  bands  : BitVec 16
  fanout : Nat
deriving DecidableEq, Repr

/-- A node class record's fields (R142). -/
structure ClassRec where
  /-- supported band classes -/
  bands    : BitVec 16
  capacity : Nat
  /-- maximum per-feed level code -/
  level    : Nat
deriving DecidableEq, Repr

/-- The contents of a store record (R142). -/
inductive Contents where
  | operator (o : OperatorRec)
  | nodeClass (c : ClassRec)
deriving DecidableEq, Repr

/-- The status of a store record (R143). -/
inductive RecordStatus where
  | blank | valid (c : Contents) | spoiled
deriving DecidableEq, Repr

/-- States of the store engine (R145). -/
inductive StoreEngine where
  | idle | reading | erasing (page : PageId) | writing (record : RecordId) (c : Contents) | locking
deriving DecidableEq, Repr

/-- The Store Controller (R142 to R147). -/
structure Store where
  records  : Vector RecordStatus 16
  /-- pages whose erase mark is written (INTACT) -/
  intact   : Vector Bool 4
  /-- the lock cell is marked -/
  locked   : Bool
  working  : Vector (Option Contents) 16
  withdrawing : Vector Bool 4
  engine   : StoreEngine
  /-- boundaries left before the operation ends -/
  left     : Nat
deriving DecidableEq, Repr

/-! ## Management Lane (09) -/

/-- Status codes (R161), in the order of section 10.3. -/
inductive Status where
  | done | started | busy | wrongState | inUse | range | entitlement | locked | torn | noPointer | notInService
  | unknown | malformed
deriving DecidableEq, Repr

/-- A message of the Outbound Queue (R161, R172). -/
inductive Message where
  | response (tag : Byte) (code : BitVec 6) (status : Status) (body : List Byte)
  | alarm (channel : ChannelId) (part parts : Nat) (entries : List SourceEntry)
  | capture (result : Result) (missed : Nat)
deriving DecidableEq, Repr

/-- Whose turn it is among the notices (R163). -/
inductive NoticeTurn where
  | alarm | capture
deriving DecidableEq, Repr

/-- The Management Lane (R155). -/
structure Lane where
  /-- the bytes of a message that is arriving -/
  assembly : Option (List Byte)
  /-- a byte of the assembly arrived in the frame in progress (R156) -/
  fed      : Bool
  /-- bytes that arrived in the frame in progress (R155) -/
  received : Nat
  intake   : List Instr
  /-- the overrun latch -/
  overrun  : Bool
  firstTag : Option Byte
  discards : Nat
  /-- the RESYNC response holder -/
  holder   : Option Message
  /-- the response of a HOLDING Command Unit; none when it is READY -/
  held     : Option Message
  /-- HUB RESET has executed and its response has not left (R166) -/
  resetArmed : Bool
  outbound : List Message
  turn     : NoticeTurn
  /-- bytes sent in the frame in progress by messages that have left -/
  sent     : Nat
  /-- bytes of the oldest message that earlier frames may have sent -/
  headSent : Nat
  /-- the bytes of the message that left last -/
  wire     : List Byte
deriving DecidableEq, Repr

/-! ## The boundary in hand -/

/-- The turns of the present frame boundary that have not been taken (log 2). -/
structure Due where
  /-- takings the report taker may still make (R36) -/
  reports : Nat
  /-- for each spoke, the reports that stood in its queue as the boundary opened and have not been taken: what the takings
  that no row has brought take (log 2) -/
  waiting : Vector Nat 32
  train   : Vector Bool 32
  settle  : Vector Bool 32
  poll    : Vector Bool 32
  groups  : Vector Bool 8
  step    : Bool
  /-- the Fault Qualifier's evaluation of each spoke (R114) -/
  eval    : Vector Bool 32
  /-- the Capture Unit's event (R107) -/
  capture : Bool
  abandon : Bool
deriving DecidableEq, Repr

/-! ## The hub -/

/-- The whole hub. -/
structure State where
  /-- the commands that wait, first in first out -/
  pending    : List Instr
  /-- sample periods the receivers have still to deliver, oldest first (log 5) -/
  arriving   : List SamplePeriod
  /-- how many free read-backs have been used (log 6) -/
  freeCount  : Nat
  frame      : Half
  reference  : Reference
  markerSkipped : Bool
  mgmtPort   : PortId
  /-- UP carrier ports -/
  ports      : Vector Bool 6
  feeds      : Vector FeedRec 24
  fabric     : Fabric
  links      : Vector Link 32
  spokes     : Vector SpokeRec 32
  restoreSettle : Nat
  pollPeriod : Nat
  /-- the spoke the report taker served last -/
  takerPos   : SpokeId
  slots      : Vector PlanSlot 8
  pointer    : Option Pointer
  staging    : Staging
  engine     : Engine
  meters     : Vector Meter 32
  groups     : Vector Group 8
  capture    : Capture
  settings   : Vector Settings 5
  quals      : Vector (Vector QualRec 5) 32
  /-- energies handed at the last boundary (R20) -/
  handed     : Vector Nat 32
  channels   : Vector Channel 16
  tracking   : Bool
  store      : Store
  lane       : Lane
  due        : Due
deriving DecidableEq, Repr

/-! ## Values after reset -/

/-- No cells. -/
def noCells : Cells := Vector.replicate 4 none

/-- Lines of zero samples. -/
def zeroLines : Lines := Vector.replicate 32 (Vector.replicate 4 [])

/-- The Fabric after power-on reset and HUB RESET (R21). -/
def Fabric.reset : Fabric where
  carry := Vector.replicate 32 noCells
  sum := Vector.replicate 32 noCells
  feedState := Vector.replicate 24 .unused
  downLines := zeroLines
  upLines := zeroLines
  saturated := Vector.replicate 24 false
  energySum := Vector.replicate 32 0
  periods := 0
  lockedAtOpen := Vector.replicate 32 false
  spokeOut := Vector.replicate 32 (Vector.replicate 4 .zero)
  feedOut := Vector.replicate 24 .zero

/-- A feed record after reset (R7). -/
def FeedRec.reset : FeedRec := ⟨.unused, 0, 0, 0⟩

/-- A link after reset (R22): unlocked, with nothing waiting. -/
def Link.dropped : Link := ⟨false, [], none, 0⟩

/-- A spoke record in DARK with its hold: the second column of R24. -/
def SpokeRec.dark (hold : Hold) : SpokeRec where
  state := .dark
  hold := hold
  knownClass := none
  elapsed := 0
  settle := 0
  nextPoll := 0
  outstanding := false
  missed := 0
  faults := 0
  temperature := none
  optical := none
  supply := none
  queue := []
  assembly := none
  overrun := false
  firstDiscarded := none

/-- A spoke record after reset: the first column of R24. -/
def SpokeRec.reset : SpokeRec := .dark .none

/-- An empty plan (R52). -/
def Plan.empty : Plan := Vector.replicate 32 ⟨none, noCells⟩

/-- A slot after reset (R50). -/
def PlanSlot.reset : PlanSlot := ⟨.empty, Plan.empty, none⟩

/-- The Cutover Engine after reset (R75). -/
def Engine.reset : Engine where
  bankA := none
  bankB := none
  line := 0
  order := tabulate id
  state := .idle
  params := none
  current := none

/-- A meter after reset (R94). -/
def Meter.reset : Meter := ⟨0, true⟩

/-- A watch group after reset (R97). -/
def Group.reset : Group := ⟨0, 0, 0, 1, none, .off, 0, .none⟩

/-- The Capture Unit after reset (R105). -/
def Capture.reset : Capture := ⟨none, none, none, none, 0⟩

/-- The default settings (R115). -/
def Settings.defaults : Vector Settings 5 :=
  #v[⟨.count, 8, 16, 1, false, none⟩,
     ⟨.persist, 5, 1, 1, false, some 60000⟩,
     ⟨.immediate, 1, 1, 0, false, none⟩,
     ⟨.immediate, 1, 1, 0, true, none⟩,
     ⟨.persist, 3, 1, 3, false, some (-180)⟩]

/-- A qualifier record after reset (R116). -/
def QualRec.reset : QualRec := ⟨.idle, false, 0, 0, 0, 0⟩

/-- A channel after reset (R128). -/
def Channel.reset : Channel := ⟨true, true, false, []⟩

/-- The store of a part as it leaves the factory (R143, R144), read for the first time (R147). -/
def Store.factory : Store where
  records := Vector.replicate 16 .blank
  intact := Vector.replicate 4 true
  locked := false
  working := Vector.replicate 16 none
  withdrawing := Vector.replicate 4 false
  engine := .reading
  left := 5

/-- The Management Lane after reset (R155). -/
def Lane.reset : Lane where
  assembly := none
  fed := false
  received := 0
  intake := []
  overrun := false
  firstTag := none
  discards := 0
  holder := none
  held := none
  resetArmed := false
  outbound := []
  turn := .alarm
  sent := 0
  headSent := 0
  wire := []

/-- A boundary with no turn left. -/
def Due.empty : Due where
  reports := 0
  waiting := Vector.replicate 32 0
  train := Vector.replicate 32 false
  settle := Vector.replicate 32 false
  poll := Vector.replicate 32 false
  groups := Vector.replicate 8 false
  step := false
  eval := Vector.replicate 32 false
  capture := false
  abandon := false

/-- The hub right after power-on reset of a factory-fresh part, with strap 0 (log 7). -/
def State.reset : State where
  pending := []
  arriving := []
  freeCount := 0
  frame := 0
  reference := .free
  markerSkipped := false
  mgmtPort := 0
  ports := Vector.replicate 6 false
  feeds := Vector.replicate 24 .reset
  fabric := .reset
  links := Vector.replicate 32 .dropped
  spokes := Vector.replicate 32 .reset
  restoreSettle := 8
  pollPeriod := 100
  takerPos := 31
  slots := Vector.replicate 8 .reset
  pointer := none
  staging := ⟨none, none⟩
  engine := .reset
  meters := Vector.replicate 32 .reset
  groups := Vector.replicate 8 .reset
  capture := .reset
  settings := Settings.defaults
  quals := Vector.replicate 32 (Vector.replicate 5 .reset)
  handed := Vector.replicate 32 0
  channels := Vector.replicate 16 .reset
  tracking := true
  store := .factory
  lane := .reset
  due := .empty

end Sys2Proof.Machine
end

