-- ==== Sys2Proof/Machine/Flags.lean ====
section
/-! DEFINITION. The hub's event flags: the sixteen alarm channels as the other blocks see them. A raise is the one
operation by which a block sets a channel pending (R130). -/

namespace Sys2Proof.Machine

/-! ## Channel names (R131) -/

/-- channel 15 -/
def chLinkLost : ChannelId := 15
/-- channel 14 -/
def chNodeFault : ChannelId := 14
/-- channel 13 -/
def chIsolation : ChannelId := 13
/-- channel 12 -/
def chUplinkOverload : ChannelId := 12
/-- channel 11 -/
def chNodeSilent : ChannelId := 11
/-- channel 10 -/
def chOpticalLow : ChannelId := 10
/-- channel 9 -/
def chFrameErrors : ChannelId := 9
/-- channel 8 -/
def chReportOverrun : ChannelId := 8
/-- channel 7 -/
def chCrowdHigh : ChannelId := 7
/-- channel 6 -/
def chCrowdLow : ChannelId := 6
/-- channel 5 -/
def chCutoverEnd : ChannelId := 5
/-- channel 4 -/
def chIntakeOverrun : ChannelId := 4
/-- channel 3 -/
def chStoreEnd : ChannelId := 3
/-- channel 2 -/
def chLinkUp : ChannelId := 2
/-- channel 1 -/
def chDuration : ChannelId := 1
/-- channel 0 -/
def chFeedTrouble : ChannelId := 0

/-- The channel of a fault kind (section 6.1). -/
def kindChannel : FaultKind → ChannelId
  | .frameErrors => chFrameErrors
  | .uplinkOverload => chUplinkOverload
  | .nodeSilent => chNodeSilent
  | .nodeFault => chNodeFault
  | .opticalLow => chOpticalLow

/-! ## Raising (R129, R130) -/

/-- A channel is pending exactly when its list holds at least one entry (R129). -/
def Channel.pending (c : Channel) : Bool := !c.list.isEmpty

/-- A raise gathered into a source list: the source's entry counts on (to 255) and takes the new detail, keeping its
place and first frame; a source without an entry gets one at the end (R130). -/
def gather (frame : Half) (source : Option Nat) (detail : Detail) : List SourceEntry → List SourceEntry
  | [] => [⟨source, frame, 1, detail⟩]
  | e :: es =>
    if e.source = source then { e with count := min 255 (e.count + 1), detail := detail } :: es
    else e :: gather frame source detail es

/-- A channel that takes a raise: a disabled channel takes none (R130). -/
def Channel.raise (frame : Half) (source : Option Nat) (detail : Detail) (c : Channel) : Channel :=
  if c.enabled then { c with list := gather frame source detail c.list } else c

/-- A raise on a channel, from a source or none, taken in the frame in progress (R130). -/
def State.raise (ch : ChannelId) (source : Option Nat) (detail : Detail) (s : State) : State :=
  { s with channels := update s.channels ch (Channel.raise s.frame source detail) }

end Sys2Proof.Machine
end

