-- ==== Sys2Proof/Decode.lean ====
section
/-! DEFINITION. Management messages: the check (R168), the envelope (R167), the command codes and body lengths (R169),
the reading of a completed command (R157) and, after it, the writing of one. No row of spec/opcode_table.json has bits,
so `decodeTableWord` spells none. -/

namespace Sys2Proof

/-- No row of the table gives bits: no word spells a command. -/
def decodeTableWord (_nbits _w : Nat) : Option Instr := none

/-! ## The check (R168) -/

/-- One shift of the check register with the generator x^16 + x^12 + x^5 + 1. -/
def crcShift (c : Half) : Half :=
  if c.msb then (c <<< 1) ^^^ 0x1021#16 else c <<< 1

/-- One byte taken into the check, most significant bit first. -/
def crcByte (c : Half) (b : Byte) : Half :=
  Nat.repeat crcShift 8 (c ^^^ (b ++ 0#8 : BitVec 16))

/-- The check over a run of bytes: it starts from 0xFFFF and has no final inversion (R168). -/
def crc (bytes : List Byte) : Half := bytes.foldl crcByte 0xFFFF#16

/-- The two bytes of a 16-bit field, most significant first. -/
def halfBytes (h : Half) : List Byte := [h.extractLsb' 8 8, h.extractLsb' 0 8]

/-- The three bytes of a 24-bit field, most significant first. -/
def triBytes (t : BitVec 24) : List Byte := [t.extractLsb' 16 8, t.extractLsb' 8 8, t.extractLsb' 0 8]

/-- The four bytes of a 32-bit field, most significant first. -/
def wordBytes (w : BitVec 32) : List Byte :=
  [w.extractLsb' 24 8, w.extractLsb' 16 8, w.extractLsb' 8 8, w.extractLsb' 0 8]

/-- Bytes closed by their check (R167, R174). -/
def withCheck (bytes : List Byte) : List Byte := bytes ++ halfBytes (crc bytes)

/-- Whether the last two bytes are the check of the bytes before them. -/
def checkPasses (bytes : List Byte) : Bool :=
  bytes.drop (bytes.length - 2) == halfBytes (crc (bytes.take (bytes.length - 2)))

/-- The lead byte of a management message (R167). -/
def messageLead : Byte := 0xC3#8

/-- The lead byte of a node report or request (R174). -/
def reportLead : Byte := 0x5A#8

/-- A message of a kind (1 COMMAND, 2 RESPONSE, 3 NOTICE), code, tag and body (R167). -/
def envelope (kind : BitVec 2) (code : BitVec 6) (tag : Byte) (body : List Byte) : List Byte :=
  withCheck (messageLead :: BitVec.ofNat 8 (body.length + 6) :: (kind ++ code : BitVec 8) :: tag :: body)

/-! ## Reading a completed command (R157, R169) -/

/-- The codes that name a command of the manual (R169). -/
def isCommandCode (code : BitVec 6) : Bool :=
  code ∈ [0x01#6, 0x02#6, 0x08#6, 0x09#6, 0x0A#6, 0x0B#6, 0x0C#6, 0x0D#6, 0x0E#6, 0x0F#6,
    0x10#6, 0x11#6, 0x12#6, 0x13#6, 0x14#6, 0x15#6, 0x16#6, 0x17#6, 0x18#6, 0x1A#6, 0x1B#6, 0x1C#6, 0x1D#6,
    0x1E#6, 0x1F#6] ||
  code ∈ [0x20#6, 0x22#6, 0x23#6, 0x24#6, 0x25#6, 0x26#6, 0x27#6, 0x28#6, 0x29#6, 0x2A#6, 0x2B#6, 0x2C#6,
    0x2D#6, 0x2E#6, 0x30#6, 0x31#6, 0x32#6, 0x33#6, 0x3C#6, 0x3D#6, 0x3E#6]

/-- A body of whole PLAN CELL entries, five bytes each. -/
def cellEntries : List Byte → Option (List CellEntry)
  | [] => some []
  | p :: f :: d :: u :: t :: rest => (cellEntries rest).map (⟨p, f, d, u, t⟩ :: ·)
  | _ => none

/-- A body of whole PLAN EXPECT pairs, two bytes each. -/
def expectPairs : List Byte → Option (List ExpectPair)
  | [] => some []
  | s :: c :: rest => (expectPairs rest).map (⟨s, c⟩ :: ·)
  | _ => none

/-- PLAN CELL: a slot byte and one to eight entries (R58, R169). -/
def readPlanCell (tag : Byte) (body : List Byte) : Instr :=
  match body with
  | slot :: rest =>
    match cellEntries rest with
    | some es => if 1 ≤ es.length ∧ es.length ≤ 8 then .planCell tag slot es else .commandMalformed tag 0x12#6
    | none => .commandMalformed tag 0x12#6
  | [] => .commandMalformed tag 0x12#6

/-- PLAN EXPECT: a slot byte and one to sixteen pairs (R59, R169). -/
def readPlanExpect (tag : Byte) (body : List Byte) : Instr :=
  match body with
  | slot :: rest =>
    match expectPairs rest with
    | some ps => if 1 ≤ ps.length ∧ ps.length ≤ 16 then .planExpect tag slot ps else .commandMalformed tag 0x13#6
    | none => .commandMalformed tag 0x13#6
  | [] => .commandMalformed tag 0x13#6

/-- A command with an empty body. -/
def read0 (code : BitVec 6) (tag : Byte) (body : List Byte) (f : Instr) : Instr :=
  match body with
  | [] => f
  | _ => .commandMalformed tag code

/-- A command with a body of one byte. -/
def read1 (code : BitVec 6) (tag : Byte) (body : List Byte) (f : Byte → Instr) : Instr :=
  match body with
  | [a] => f a
  | _ => .commandMalformed tag code

/-- A command with a body of two bytes. -/
def read2 (code : BitVec 6) (tag : Byte) (body : List Byte) (f : Byte → Byte → Instr) : Instr :=
  match body with
  | [a, b] => f a b
  | _ => .commandMalformed tag code

/-- A command with a body of three bytes. -/
def read3 (code : BitVec 6) (tag : Byte) (body : List Byte) (f : Byte → Byte → Byte → Instr) : Instr :=
  match body with
  | [a, b, c] => f a b c
  | _ => .commandMalformed tag code

/-- A command with a body of four bytes. -/
def read4 (code : BitVec 6) (tag : Byte) (body : List Byte) (f : Byte → Byte → Byte → Byte → Instr) : Instr :=
  match body with
  | [a, b, c, d] => f a b c d
  | _ => .commandMalformed tag code

/-- A command with a body of five bytes. -/
def read5 (code : BitVec 6) (tag : Byte) (body : List Byte)
    (f : Byte → Byte → Byte → Byte → Byte → Instr) : Instr :=
  match body with
  | [a, b, c, d, e] => f a b c d e
  | _ => .commandMalformed tag code

/-- WATCH SET's body of sixteen bytes (section 10.3). -/
def readWatchSet (tag : Byte) (body : List Byte) : Instr :=
  match body with
  | [g, m3, m2, m1, m0, h2, h1, h0, l2, l1, l0, dw, p, t, i, s] =>
    .watchSet tag g (m3 ++ m2 ++ m1 ++ m0 : BitVec 32) (h2 ++ h1 ++ h0 : BitVec 24) (l2 ++ l1 ++ l0 : BitVec 24) dw p t i s
  | _ => .commandMalformed tag 0x22#6

/-- CAPTURE's body of six bytes. -/
def readCapture (tag : Byte) (body : List Byte) : Instr :=
  match body with
  | [s, p, k, m, i1, i0] => .capture tag s p k m (i1 ++ i0 : BitVec 16)
  | _ => .commandMalformed tag 0x26#6

/-- QUALIFY's body of eight bytes. -/
def readQualify (tag : Byte) (body : List Byte) : Instr :=
  match body with
  | [k, m, n, w, u, a, l1, l0] => .qualify tag k m n w u a (l1 ++ l0 : BitVec 16)
  | _ => .commandMalformed tag 0x28#6

/-- A command that carries a list of one-byte entries, within its stated count (R157). -/
def readList (code : BitVec 6) (tag : Byte) (body : List Byte) (lo hi : Nat) (f : List Byte → Instr) : Instr :=
  if lo ≤ body.length ∧ body.length ≤ hi then f body else .commandMalformed tag code

/-- A completed command, sorted by its code and its length (R157): UNKNOWN where the code names no command,
MALFORMED where the length is none the code allows. -/
def commandOf (tag : Byte) (code : BitVec 6) (body : List Byte) : Instr :=
  match code.toNat with
  | 0x01 => read5 code tag body (.feedSet tag)
  | 0x02 => read1 code tag body (.feedRead tag)
  | 0x08 => read1 code tag body (.spokeIsolate tag)
  | 0x09 => read1 code tag body (.spokeRestore tag)
  | 0x0A => read1 code tag body (.spokeQuiet tag)
  | 0x0B => read1 code tag body (.spokeWake tag)
  | 0x0C => read1 code tag body (.spokeRetrain tag)
  | 0x0D => read1 code tag body (.spokeRearm tag)
  | 0x0E => read1 code tag body (.spokeRead tag)
  | 0x0F => read2 code tag body fun a b => .pollSet tag (a ++ b : BitVec 16)
  | 0x10 => read1 code tag body (.planOpen tag)
  | 0x11 => read1 code tag body (.planEdit tag)
  | 0x12 => readPlanCell tag body
  | 0x13 => readPlanExpect tag body
  | 0x14 => read1 code tag body (.planClose tag)
  | 0x15 => read1 code tag body (.planDrop tag)
  | 0x16 => read2 code tag body (.planRead tag)
  | 0x17 => read3 code tag body (.trimPoint tag)
  | 0x18 => readList code tag body 1 48 (.trim tag)
  | 0x1A => read2 code tag body (.bankBind tag)
  | 0x1B => read1 code tag body (.bankRelease tag)
  | 0x1C => readList code tag body 32 32 (.sweepOrder tag)
  | 0x1D => read4 code tag body (.cutover tag)
  | 0x1E => read0 code tag body (.halt tag)
  | 0x1F => read0 code tag body (.fold tag)
  | 0x20 => read0 code tag body (.cutoverRead tag)
  | 0x22 => readWatchSet tag body
  | 0x23 => read1 code tag body (.watchOff tag)
  | 0x24 => read1 code tag body (.watchRead tag)
  | 0x25 => readList code tag body 1 32 (.meterRead tag)
  | 0x26 => readCapture tag body
  | 0x27 => read0 code tag body (.captureStop tag)
  | 0x28 => readQualify tag body
  | 0x29 => read2 code tag body (.qualifyRead tag)
  | 0x2A => read4 code tag body fun a b c d => .alarmEnable tag (a ++ b : BitVec 16) (c ++ d : BitVec 16)
  | 0x2B => read4 code tag body fun a b c d => .alarmMask tag (a ++ b : BitVec 16) (c ++ d : BitVec 16)
  | 0x2C => read1 code tag body (.alarmTrack tag)
  | 0x2D => read1 code tag body (.alarmDone tag)
  | 0x2E => read2 code tag body (.alarmRead tag)
  | 0x30 => read1 code tag body (.storeRead tag)
  | 0x31 => read1 code tag body (.storeErase tag)
  | 0x32 => read5 code tag body (.storeWrite tag)
  | 0x33 => read0 code tag body (.storeLock tag)
  | 0x3C => read0 code tag body (.resync tag)
  | 0x3D => read0 code tag body (.hubStatus tag)
  | 0x3E => read0 code tag body (.hubReset tag)
  | _ => .commandUnknown tag code

/-! ## Writing a command (R167, R169): the controller's side -/

/-- The code and tag of a management command; none for a step that no message asks for. -/
def Instr.header : Instr → Option (BitVec 6 × Byte)
  | .commandUnknown tag code => some (code, tag)
  | .commandMalformed tag code => some (code, tag)
  | .feedSet tag _ _ _ _ _ => some (0x01#6, tag)
  | .feedRead tag _ => some (0x02#6, tag)
  | .spokeIsolate tag _ => some (0x08#6, tag)
  | .spokeRestore tag _ => some (0x09#6, tag)
  | .spokeQuiet tag _ => some (0x0A#6, tag)
  | .spokeWake tag _ => some (0x0B#6, tag)
  | .spokeRetrain tag _ => some (0x0C#6, tag)
  | .spokeRearm tag _ => some (0x0D#6, tag)
  | .spokeRead tag _ => some (0x0E#6, tag)
  | .pollSet tag _ => some (0x0F#6, tag)
  | .planOpen tag _ => some (0x10#6, tag)
  | .planEdit tag _ => some (0x11#6, tag)
  | .planCell tag _ _ => some (0x12#6, tag)
  | .planExpect tag _ _ => some (0x13#6, tag)
  | .planClose tag _ => some (0x14#6, tag)
  | .planDrop tag _ => some (0x15#6, tag)
  | .planRead tag _ _ => some (0x16#6, tag)
  | .trimPoint tag _ _ _ => some (0x17#6, tag)
  | .trim tag _ => some (0x18#6, tag)
  | .bankBind tag _ _ => some (0x1A#6, tag)
  | .bankRelease tag _ => some (0x1B#6, tag)
  | .sweepOrder tag _ => some (0x1C#6, tag)
  | .cutover tag _ _ _ _ => some (0x1D#6, tag)
  | .halt tag => some (0x1E#6, tag)
  | .fold tag => some (0x1F#6, tag)
  | .cutoverRead tag => some (0x20#6, tag)
  | .watchSet tag _ _ _ _ _ _ _ _ _ => some (0x22#6, tag)
  | .watchOff tag _ => some (0x23#6, tag)
  | .watchRead tag _ => some (0x24#6, tag)
  | .meterRead tag _ => some (0x25#6, tag)
  | .capture tag _ _ _ _ _ => some (0x26#6, tag)
  | .captureStop tag => some (0x27#6, tag)
  | .qualify tag _ _ _ _ _ _ _ => some (0x28#6, tag)
  | .qualifyRead tag _ _ => some (0x29#6, tag)
  | .alarmEnable tag _ _ => some (0x2A#6, tag)
  | .alarmMask tag _ _ => some (0x2B#6, tag)
  | .alarmTrack tag _ => some (0x2C#6, tag)
  | .alarmDone tag _ => some (0x2D#6, tag)
  | .alarmRead tag _ _ => some (0x2E#6, tag)
  | .storeRead tag _ => some (0x30#6, tag)
  | .storeErase tag _ => some (0x31#6, tag)
  | .storeWrite tag _ _ _ _ _ => some (0x32#6, tag)
  | .storeLock tag => some (0x33#6, tag)
  | .resync tag => some (0x3C#6, tag)
  | .hubStatus tag => some (0x3D#6, tag)
  | .hubReset tag => some (0x3E#6, tag)
  | .powerOnReset _ | .frameBoundary _ | .timebaseRelock _ _ | .carrierPortLock _ | .carrierPortLoss _
  | .spokeLinkLock _ | .spokeLinkLoss _ | .sampleGroupDamaged _ _ | .nodeRequestSend _ | .reportComplete _ _
  | .reportTake | .helloRequestRepeat _ | .trainingLimit _ | .settleEnd _ | .healthPollDue _ | .crowdedEntry _
  | .groupCalm _ | .cutoverStep | .persistQualify _ _ | .qualifierWindowEnd _ _ | .captureCollectionEnd
  | .captureCollectionStart | .captureNoticeEnqueue | .alarmPresentation | .startupReadEnd | .storeEraseEnd _
  | .storeWriteEnd _ | .storeLockEnd | .commandComplete _ | .assemblyAbandon | .commandResponseTaken
  | .resyncResponseTaken | .messageLeaves | .hubResetEffect | .inboundByte _ | .reportLeadByte _ => none

/-- The tag that the response echoes (R161). -/
def Instr.tag (i : Instr) : Byte := (i.header.map (·.2)).getD 0#8

/-- The command's code (R169). -/
def Instr.code (i : Instr) : BitVec 6 := (i.header.map (·.1)).getD 0#6

/-- The bytes of one PLAN CELL entry. -/
def CellEntry.bytes (e : CellEntry) : List Byte := [e.place, e.feed, e.down, e.up, e.trim]

/-- The bytes of one PLAN EXPECT pair. -/
def ExpectPair.bytes (p : ExpectPair) : List Byte := [p.spoke, p.cls]

/-- The shortest body whose length a code does not allow (R157, R169): the row of a MALFORMED command brings it (log 8). -/
def shortestMalformed (code : BitVec 6) : List Byte :=
  if code ∈ [0x1E#6, 0x1F#6, 0x20#6, 0x27#6, 0x33#6, 0x3C#6, 0x3D#6, 0x3E#6] then [0#8] else []

/-- The body of a management command: its operands in the order of its rule (section 10.3). -/
def Instr.body : Instr → List Byte
  | .feedSet _ f st op bd lv => [f, st, op, bd, lv]
  | .feedRead _ f => [f]
  | .spokeIsolate _ s | .spokeRestore _ s | .spokeQuiet _ s | .spokeWake _ s | .spokeRetrain _ s
  | .spokeRearm _ s | .spokeRead _ s => [s]
  | .pollSet _ p => halfBytes p
  | .planOpen _ s | .planEdit _ s | .planClose _ s | .planDrop _ s => [s]
  | .planCell _ s es => s :: es.flatMap CellEntry.bytes
  | .planExpect _ s ps => s :: ps.flatMap ExpectPair.bytes
  | .planRead _ s i => [s, i]
  | .trimPoint _ s i p => [s, i, p]
  | .trim _ vs => vs
  | .bankBind _ b s => [b, s]
  | .bankRelease _ b => [b]
  | .sweepOrder _ o => o
  | .cutover _ t i s f => [t, i, s, f]
  | .watchSet _ g m h l d p t i s =>
    (g :: wordBytes m) ++ triBytes h ++ triBytes l ++ [d, p, t, i, s]
  | .watchOff _ g | .watchRead _ g => [g]
  | .meterRead _ ss => ss
  | .capture _ s p k m i => [s, p, k, m] ++ halfBytes i
  | .qualify _ k m n w u a l => [k, m, n, w, u, a] ++ halfBytes l
  | .qualifyRead _ k s => [k, s]
  | .alarmEnable _ a b | .alarmMask _ a b => halfBytes a ++ halfBytes b
  | .alarmTrack _ v => [v]
  | .alarmDone _ c => [c]
  | .alarmRead _ c i => [c, i]
  | .storeRead _ r => [r]
  | .storeErase _ p => [p]
  | .storeWrite _ r c0 c1 c2 c3 => [r, c0, c1, c2, c3]
  | .halt _ | .fold _ | .cutoverRead _ | .captureStop _ | .storeLock _ | .resync _ | .hubStatus _ | .hubReset _
  | .commandUnknown _ _
  | .powerOnReset _ | .frameBoundary _ | .timebaseRelock _ _ | .carrierPortLock _ | .carrierPortLoss _
  | .spokeLinkLock _ | .spokeLinkLoss _ | .sampleGroupDamaged _ _ | .nodeRequestSend _ | .reportComplete _ _
  | .reportTake | .helloRequestRepeat _ | .trainingLimit _ | .settleEnd _ | .healthPollDue _ | .crowdedEntry _
  | .groupCalm _ | .cutoverStep | .persistQualify _ _ | .qualifierWindowEnd _ _ | .captureCollectionEnd
  | .captureCollectionStart | .captureNoticeEnqueue | .alarmPresentation | .startupReadEnd | .storeEraseEnd _
  | .storeWriteEnd _ | .storeLockEnd | .commandComplete _ | .assemblyAbandon | .commandResponseTaken
  | .resyncResponseTaken | .messageLeaves | .hubResetEffect | .inboundByte _ | .reportLeadByte _ => []
  | .commandMalformed _ code => shortestMalformed code

/-- The bytes of a management command on the lane (R167): kind 1 is COMMAND. -/
def Instr.messageBytes (i : Instr) : List Byte := envelope 1#2 i.code i.tag i.body

end Sys2Proof
end

