-- ==== Sys2Proof/Machine/Operands.lean ====
section
/-! DEFINITION. Operand bytes read (R170), items of responses written (section 10.3), and the byte codes of the manual's
enumerations, numbered from 0 in the order the manual lists their values (log 20). -/

namespace Sys2Proof.Machine

/-! ## Reading operands (R170): none is an operand out of range -/

/-- A number below `n`. -/
def below (n : Nat) (b : Byte) : Option (Fin n) :=
  if h : b.toNat < n then some ⟨b.toNat, h⟩ else none

/-- A number in a range, as it stands. -/
def within (lo hi : Nat) (n : Nat) : Option Nat := if lo ≤ n ∧ n ≤ hi then some n else none

/-- A flag, or an ON/OFF operand: 0 or 1. -/
def flagOf (b : Byte) : Option Bool :=
  if b = 0#8 then some false else if b = 1#8 then some true else none

/-- A feed state: UNUSED 0, ACTIVE 1, MUTED 2. -/
def feedStateOf (b : Byte) : Option FeedState :=
  if b = 0#8 then some .unused else if b = 1#8 then some .active else if b = 2#8 then some .muted else none

/-- A bank: A 0, B 1; true is bank B. -/
def bankOf (b : Byte) : Option Bool := flagOf b

/-- A capture kind: POWER 0, RAW 1. -/
def captureKindOf (b : Byte) : Option CaptureKind :=
  if b = 0#8 then some .power else if b = 1#8 then some .raw else none

/-- A fault kind, in the order of R172. -/
def faultKindOf (b : Byte) : Option FaultKind :=
  if b = 0#8 then some .frameErrors else if b = 1#8 then some .uplinkOverload else if b = 2#8 then some .nodeSilent
  else if b = 3#8 then some .nodeFault else if b = 4#8 then some .opticalLow else none

/-- A qualifier mode: IMMEDIATE 0, PERSIST 1, COUNT 2, DURATION 3. -/
def modeOf (b : Byte) : Option Mode :=
  if b = 0#8 then some .immediate else if b = 1#8 then some .persist else if b = 2#8 then some .count
  else if b = 3#8 then some .duration else none

/-- An expected class of PLAN EXPECT: 0 to 7, or 0xFF for NONE (section 10.3). -/
def expectOf (b : Byte) : Option (Option NodeClass) :=
  if b = 0xFF#8 then some none else (below 8 b).map some

/-- A PLAN CELL entry: bits 4-0 of byte 0 the spoke, bits 6-5 the position, bit 7 EMPTY, whose values are not read
(R58, R170). -/
def cellOf (e : CellEntry) : Option (SpokeId × CellPos × Option Cell) :=
  let spoke : SpokeId := (e.place.extractLsb' 0 5).toFin
  let pos : CellPos := (e.place.extractLsb' 5 2).toFin
  if e.place.msb then some (spoke, pos, none) else
    match below 24 e.feed, below 64 e.down, below 64 e.up with
    | some f, some d, some u => some (spoke, pos, some ⟨f, d, u, e.trim.toFin⟩)
    | _, _, _ => none

/-- A PLAN EXPECT pair (R59). -/
def pairOf (p : ExpectPair) : Option (SpokeId × Option NodeClass) :=
  match below 32 p.spoke, expectOf p.cls with
  | some s, some c => some (s, c)
  | _, _ => none

/-- Every entry of a list read, or none where one is out of range: "one entry out of range refuses the whole command". -/
def readAll {α β : Type} (f : α → Option β) : List α → Option (List β)
  | [] => some []
  | a :: as =>
    match f a, readAll f as with
    | some b, some bs => some (b :: bs)
    | _, _ => none

/-- A WATCH SET relief: absent after a presence byte of 0, whose bytes are ignored (R170). -/
def reliefOf (present target interval settle : Byte) : Option (Option Relief) :=
  match flagOf present with
  | none => none
  | some false => some none
  | some true =>
    match below 33 target, within 1 255 interval.toNat, below 64 settle with
    | some t, some i, some s => some (some ⟨t, i, s⟩)
    | _, _, _ => none

/-- The contents of STORE WRITE: an operator record for store records 0-7, a node class record for 8-15 (R152, R176). -/
def contentsOf (r : RecordId) (c0 c1 c2 c3 : Byte) : Option Contents :=
  if r.val < 8 then
    if c0.toNat < 64 ∧ 1 ≤ c3.toNat ∧ c3.toNat ≤ 32 then
      some (.operator ⟨c0.extractLsb' 0 6, (c1 ++ c2 : BitVec 16), c3.toNat⟩)
    else none
  else
    if 1 ≤ c2.toNat ∧ c2.toNat ≤ 4 ∧ c3.toNat ≤ 80 then
      some (.nodeClass ⟨(c0 ++ c1 : BitVec 16), c2.toNat, c3.toNat⟩)
    else none

/-! ## Writing items (section 10.3) -/

/-- A one-byte number. -/
def u8 (n : Nat) : List Byte := [BitVec.ofNat 8 n]

/-- A two-byte number. -/
def u16 (n : Nat) : List Byte := halfBytes (BitVec.ofNat 16 n)

/-- A three-byte number. -/
def u24 (n : Nat) : List Byte := triBytes (BitVec.ofNat 24 n)

/-- One byte in two's complement. -/
def i8 (z : Int) : List Byte := [BitVec.ofInt 8 z]

/-- Two bytes in two's complement. -/
def i16 (z : Int) : List Byte := halfBytes (BitVec.ofInt 16 z)

/-- Yes or no, on or off, set or clear: 1 or 0 (log 20). -/
def flag (b : Bool) : List Byte := u8 (if b then 1 else 0)

/-- A one-byte item that may be absent, where its range leaves 0xFF free. -/
def opt8 (o : Option Nat) : List Byte := u8 (o.getD 0xFF)

/-- A presence byte and a one-byte value, 0 when absent (log 9). -/
def present8 (o : Option Nat) : List Byte := flag o.isSome ++ u8 (o.getD 0)

/-- A presence byte and a two's complement byte, 0 when absent. -/
def presentI8 (o : Option Int) : List Byte := flag o.isSome ++ i8 (o.getD 0)

/-- A presence byte and two bytes in two's complement, 0 when absent. -/
def presentI16 (o : Option Int) : List Byte := flag o.isSome ++ i16 (o.getD 0)

/-! ## Codes of enumerations -/

/-- LOCKED 0, FREE 1. -/
def Reference.code : Reference → Nat
  | .locked => 0
  | .free => 1

/-- UNUSED 0, ACTIVE 1, MUTED 2. -/
def FeedState.code : FeedState → Nat
  | .unused => 0
  | .active => 1
  | .muted => 2

/-- DARK 0, TRAINING 1, LIVE 2, QUIET 3, ISOLATED 4. -/
def SpokeState.code : SpokeState → Nat
  | .dark => 0
  | .training => 1
  | .live => 2
  | .quiet => 3
  | .isolated => 4

/-- The kinds in the order of R172. -/
def faultKindCode : FaultKind → Nat
  | .frameErrors => 0
  | .uplinkOverload => 1
  | .nodeSilent => 2
  | .nodeFault => 3
  | .opticalLow => 4

/-- ADMIN 0, FAULT 1, NO_HELLO 2, CLASS_MISMATCH 3, CLASS_UNKNOWN 4 (R172). -/
def Reason.code : Reason → Nat
  | .admin => 0
  | .fault _ => 1
  | .noHello => 2
  | .classMismatch => 3
  | .classUnknown => 4

/-- The kind of a FAULT reason, else 0xFF (R172). -/
def Reason.kindCode : Reason → Nat
  | .fault k => faultKindCode k
  | .admin | .noHello | .classMismatch | .classUnknown => 0xFF

/-- NONE 0, QUIET 1, ISOLATE 2, with the reason and its kind, 0xFF where there is none (log 9). That hold NONE is 0, the
first of section 2.2's list, and not the 0xFF of section 10.3's row for NONE, is the model's choice (log 32). -/
def Hold.bytes : Hold → List Byte
  | .none => u8 0 ++ u8 0xFF ++ u8 0xFF
  | .quiet => u8 1 ++ u8 0xFF ++ u8 0xFF
  | .isolate r => u8 2 ++ u8 r.code ++ u8 r.kindCode

/-- OK 0, LOW 1. -/
def Supply.code : Supply → Nat
  | .ok => 0
  | .low => 1

/-- HELLO 0, HEALTH 1, FAULT 2, CLEAR 3, UNREADABLE 4. -/
def ReportKind.code : ReportKind → Nat
  | .hello => 0
  | .health => 1
  | .fault => 2
  | .clear => 3
  | .unreadable => 4

/-- The kind of a completed report, as its queue holds it (section 2.2). -/
def Report.kind : Report → ReportKind
  | .hello _ => .hello
  | .health _ _ _ => .health
  | .fault _ => .fault
  | .clear _ => .clear
  | .damaged k => k

/-- Whether a completed report is damaged. -/
def Report.isDamaged : Report → Bool
  | .damaged _ => true
  | .hello _ | .health _ _ _ | .fault _ | .clear _ => false

/-- The kind that a discarded report leaves: UNREADABLE if it is damaged (R35). -/
def Report.discardedKind (r : Report) : ReportKind := if r.isDamaged then .unreadable else r.kind

/-- EMPTY 0, LOADING 1, READY 2, REJECTED 3. -/
def SlotState.code : SlotState → Nat
  | .empty => 0
  | .loading => 1
  | .ready => 2
  | .rejected => 3

/-- The reasons in the order of section 3.2. -/
def FailReason.code : FailReason → Nat
  | .feedUnused => 0
  | .feedTwice => 1
  | .noClass => 2
  | .classAbsent => 3
  | .capacity => 4
  | .band => 5
  | .operator => 6
  | .level => 7
  | .fanout => 8

/-- A failure as spoke, cell position or 0xFF, and reason (R170). -/
def Failure.bytes (f : Failure) : List Byte :=
  u8 f.spoke ++ opt8 (f.pos.map (·.val)) ++ u8 f.reason.code

/-- DL 0, UL 1, DELAY 2. -/
def Part.code : Part → Nat
  | .dl => 0
  | .ul => 1
  | .delay => 2

/-- The trim pointer as slot, spoke, cell position and part, 0xFF in each when it is cleared (log 9). -/
def pointerBytes : Option Pointer → List Byte
  | some p => u8 p.slot ++ u8 p.spoke ++ u8 p.pos ++ u8 p.part.code
  | none => u8 0xFF ++ u8 0xFF ++ u8 0xFF ++ u8 0xFF

/-- The staging record: each code, or 0xFF when absent. -/
def Staging.bytes (s : Staging) : List Byte := opt8 (s.down.map (·.val)) ++ opt8 (s.up.map (·.val))

/-- A cell as feed, downlink and uplink attenuation and delay trim; EMPTY as 0xFF and three bytes 0 (log 9). -/
def cellBytes : Option Cell → List Byte
  | some c => u8 c.feed ++ u8 c.down ++ u8 c.up ++ u8 c.trim
  | none => u8 0xFF ++ u8 0 ++ u8 0 ++ u8 0

/-- IDLE 0, STEPPING 1, HALTING 2. -/
def EngineState.code : EngineState → Nat
  | .idle => 0
  | .stepping => 1
  | .halting => 2

/-- The group of a relief, 0x80 for COMMAND: R172 gives it for the CUTOVER_END notice; that CUTOVER READ's response has the
same byte is the model's choice (log 26). -/
def Origin.code : Origin → Nat
  | .command => 0x80
  | .relief g => g.val

/-- A bank's binding: its slot, or 0xFF for UNBOUND. -/
def bindingBytes (b : Option SlotId) : List Byte := opt8 (b.map (·.val))

/-- OFF 0, CALM 1, RISING 2, CROWDED 3, FALLING 4. -/
def GroupState.code : GroupState → Nat
  | .off => 0
  | .calm => 1
  | .rising => 2
  | .crowded => 3
  | .falling => 4

/-- NONE 0, FIRED 1, BLOCKED BUSY 2, UNBOUND 3, AT_TARGET 4: R172 gives it for the CROWD_HIGH notice; that WATCH READ's
response has the same byte is the model's choice (log 26). -/
def ReliefState.code : ReliefState → Nat
  | .none => 0
  | .fired => 1
  | .busy => 2
  | .unbound => 3
  | .atTarget => 4

/-- POWER 0, RAW 1. -/
def CaptureKind.code : CaptureKind → Nat
  | .power => 0
  | .raw => 1

/-- IMMEDIATE 0, PERSIST 1, COUNT 2, DURATION 3. -/
def Mode.code : Mode → Nat
  | .immediate => 0
  | .persist => 1
  | .count => 2
  | .duration => 3

/-- IDLE 0, ARMED 1, QUALIFIED 2, MEASURING 3. -/
def QualState.code : QualState → Nat
  | .idle => 0
  | .armed => 1
  | .qualified => 2
  | .measuring => 3

/-- BLANK 0, VALID 1, SPOILED 2 (R176). -/
def RecordStatus.code : RecordStatus → Nat
  | .blank => 0
  | .valid _ => 1
  | .spoiled => 2

/-- IDLE 0, READING 1, ERASING 2, WRITING 3, LOCKING 4 (R176). -/
def StoreEngine.code : StoreEngine → Nat
  | .idle => 0
  | .reading => 1
  | .erasing _ => 2
  | .writing _ _ => 3
  | .locking => 4

/-- The page or store record of the operation in flight, 0xFF when there is none (R176). -/
def StoreEngine.place : StoreEngine → Nat
  | .erasing p => p.val
  | .writing r _ => r.val
  | .idle | .reading | .locking => 0xFF

/-- The four content bytes of a record (section 10.3). -/
def Contents.bytes : Contents → List Byte
  | .operator o => u8 o.ports.toNat ++ halfBytes o.bands ++ u8 o.fanout
  | .nodeClass c => halfBytes c.bands ++ u8 c.capacity ++ u8 c.level

/-- The status byte (section 10.3). -/
def Status.code : Status → Nat
  | .done => 0x00
  | .started => 0x01
  | .busy => 0x02
  | .wrongState => 0x03
  | .inUse => 0x04
  | .range => 0x05
  | .entitlement => 0x06
  | .locked => 0x07
  | .torn => 0x08
  | .noPointer => 0x09
  | .notInService => 0x0A
  | .unknown => 0x0B
  | .malformed => 0x0C

/-- Frames in one unit: codes 0 to 3 are 1, 4, 16 and 64 (section 10.3). -/
def unitFrames (u : UnitCode) : Nat := 4 ^ u.val

end Sys2Proof.Machine
end

