-- ==== Sys2Proof/Machine/Ops.lean ====
section
/-! DEFINITION. Operations that several blocks share: the spoke table, the working copy, who follows which plan, what the
Cutover Engine does when it is told of a spoke, isolation, settle starts and the class check. -/

namespace Sys2Proof.Machine

/-! ## Tables -/

/-- The spokes in ascending order. -/
def allSpokes : List SpokeId := List.finRange 32

/-- The cell positions in ascending order. -/
def allPositions : List CellPos := List.finRange 4

/-- The feeds in ascending order. -/
def allFeeds : List FeedId := List.finRange 24

/-- The fault kinds in the manual's order. -/
def allKinds : List FaultKind := [.frameErrors, .uplinkOverload, .nodeSilent, .nodeFault, .opticalLow]

/-- A kind's place in the tables of settings and records. -/
def kindIndex : FaultKind → Fin 5
  | .frameErrors => 0
  | .uplinkOverload => 1
  | .nodeSilent => 2
  | .nodeFault => 3
  | .opticalLow => 4

/-- One spoke's record changed. -/
def State.mapSpoke (i : SpokeId) (f : SpokeRec → SpokeRec) (s : State) : State :=
  { s with spokes := update s.spokes i f }

/-- One link changed. -/
def State.mapLink (i : SpokeId) (f : Link → Link) (s : State) : State :=
  { s with links := update s.links i f }

/-- An act on each spoke in turn, in ascending order. -/
def eachSpoke (f : SpokeId → State → State) (s : State) : State :=
  allSpokes.foldl (fun t i => f i t) s

/-- The carrier port of a feed: feed f belongs to port f divided by 4. -/
def portOf (f : FeedId) : PortId := ⟨f.val / 4, by omega⟩

/-! ## The working copy (R146) -/

/-- The page of a store record (R142). -/
def pageOf (r : RecordId) : PageId := ⟨r.val / 4, by omega⟩

/-- The store record of an operator (R142). -/
def operatorRecord (o : Fin 8) : RecordId := ⟨o.val, by omega⟩

/-- The store record of a node class (R142). -/
def classRecord (c : NodeClass) : RecordId := ⟨8 + c.val, by omega⟩

/-- A record as every check reads it: a withdrawing record counts as absent (R146). -/
def Store.lookup (st : Store) (r : RecordId) : Option Contents :=
  if st.withdrawing[pageOf r] then none else st.working[r]

/-- An operator's record, if it is present and not withdrawing. -/
def Store.operator (st : Store) (o : Fin 8) : Option OperatorRec :=
  match st.lookup (operatorRecord o) with
  | some (.operator r) => some r
  | _ => none

/-- A node class's record, if it is present and not withdrawing. -/
def Store.nodeClass (st : Store) (c : NodeClass) : Option ClassRec :=
  match st.lookup (classRecord c) with
  | some (.nodeClass r) => some r
  | _ => none

/-! ## Followers (R76) -/

/-- A spoke's index in the sweep order. -/
def Engine.sweepPos (e : Engine) (i : SpokeId) : Nat := e.order.toList.idxOf i

/-- A spoke whose sweep position is below the line follows bank B, every other spoke bank A. -/
def Engine.followsB (e : Engine) (i : SpokeId) : Bool := e.sweepPos i < e.line.val

/-- The slot of a spoke's followed plan, or none if that bank is unbound. -/
def Engine.followedSlot (e : Engine) (i : SpokeId) : Option SlotId :=
  if e.followsB i then e.bankB else e.bankA

/-- Whether a slot is bound to either bank. -/
def Engine.holds (e : Engine) (k : SlotId) : Bool := e.bankA == some k || e.bankB == some k

/-- A spoke's entry in its followed plan. -/
def State.followedEntry (s : State) (i : SpokeId) : Option Entry :=
  (s.engine.followedSlot i).map fun k => s.slots[k].plan[i]

/-- The class that a spoke's followed plan expects of it (R29, R53). -/
def State.expectedClass (s : State) (i : SpokeId) : Option NodeClass :=
  (s.followedEntry i).bind (·.expect)

/-! ## The Cutover Engine's side (R85 to R88) -/

/-- A fold: bank A takes bank B's slot, bank B becomes unbound, the line becomes 0 (R88). -/
def Engine.fold (e : Engine) : Engine := { e with bankA := e.bankB, bankB := none, line := 0 }

/-- The end of a cutover (R86, R87): the engine goes to IDLE, a flagged fold is made if it ended DONE at line 32, and
CUTOVER_END is raised with the line as it stands after the end. -/
def State.endCutover (halted : Bool) (s : State) : State :=
  let wantsFold := (s.engine.params.map (·.fold)).getD false
  let folded := !halted && wantsFold && s.engine.line.val == 32
  let origin := (s.engine.params.map (·.origin)).getD .command
  let e := { s.engine with state := .idle, current := none }
  let e := if folded then e.fold else e
  { s with engine := e }.raise chCutoverEnd none (.cutoverEnd halted e.line folded origin)

/-- The current step becomes complete (R85); the cutover ends with it in HALTING, and in STEPPING at the target. -/
def State.completeStep (s : State) : State :=
  let t := { s with engine := { s.engine with current := s.engine.current.map fun c => { c with complete := true } } }
  match s.engine.state with
  | .idle => s
  | .stepping => if s.engine.params.map (·.target) = some s.engine.line then t.endCutover false else t
  | .halting => t.endCutover true

/-- The Supervisor reports that a spoke's settle ran out or that it left LIVE: the engine takes notice only if it is the
spoke of a current step that is not complete (R85). -/
def State.tellEngine (i : SpokeId) (s : State) : State :=
  match s.engine.current with
  | some c => if c.spoke = i ∧ c.complete = false then s.completeStep else s
  | none => s

/-! ## Leaving LIVE, isolation, settle and the class check (R26 to R29) -/

/-- What any departure from LIVE brings with it, once the record has changed: a collection on the spoke will be
INCOMPLETE (R109), and the Cutover Engine is told (R28). -/
def State.departLive (i : SpokeId) (s : State) : State :=
  let spoil (c : Collection) : Collection := if c.target.spoke = i then { c with live := false } else c
  { s with capture := { s.capture with collection := s.capture.collection.map spoil }
           due := { s.due with settle := s.due.settle.set i false } }.tellEngine i

/-- A spoke moved to another state, with the settle count cleared (R25, R28); a departure from LIVE takes its effects. -/
def State.moveSpoke (i : SpokeId) (f : SpokeRec → SpokeRec) (s : State) : State :=
  let t := s.mapSpoke i fun r => { f r with settle := 0 }
  if s.spokes[i].state = .live then t.departLive i else t

/-- Whether a hold is ISOLATE. -/
def Hold.isolates : Hold → Bool
  | .isolate _ => true
  | .none | .quiet => false

/-- The state after an isolation request that finds no isolate hold (table of R26). -/
def stateWhenIsolated (reason : Reason) : SpokeState → SpokeState
  | .live | .quiet | .isolated => .isolated
  | .training =>
    match reason with
    | .noHello | .classUnknown => .isolated
    | .admin | .fault _ | .classMismatch => .training
  | .dark => .dark

/-- An isolation request (R26): nothing where the hold is already ISOLATE; otherwise the hold is set, the state changes
and ISOLATION is raised. -/
def State.isolate (i : SpokeId) (reason : Reason) (s : State) : State :=
  if s.spokes[i].hold.isolates then s else
    (s.moveSpoke i fun r => { r with hold := .isolate reason, state := stateWhenIsolated reason r.state }).raise
      chIsolation (some i.val) (.isolation reason)

/-- A settle start of length `n`: on a LIVE spoke the greater of the present count and `n`; nothing on another (R27). -/
def State.settleStart (i : SpokeId) (n : Nat) (s : State) : State :=
  s.mapSpoke i fun r => if r.state = .live then { r with settle := max r.settle n } else r

/-- The class check (R29): a LIVE spoke whose followed plan expects another class is isolated with CLASS_MISMATCH. -/
def State.classCheck (i : SpokeId) (s : State) : State :=
  if s.spokes[i].state = .live then
    match s.expectedClass i with
    | none => s
    | some c => if s.spokes[i].knownClass = some c then s else s.isolate i .classMismatch
  else s

/-- Entry to LIVE (R27, R29): hold NONE, the restore settle, then the class check. -/
def State.enterLive (i : SpokeId) (s : State) : State :=
  ((s.mapSpoke i fun r => { r with state := .live, hold := .none, settle := 0 }).settleStart i s.restoreSettle).classCheck i

/-! ## Requests to nodes (R22) -/

/-- A request made: it waits at the tail of the list, unless one of its kind already waits. -/
def Link.request (q : Request) (l : Link) : Link :=
  if q ∈ l.requests then l else { l with requests := l.requests ++ [q] }

/-- Entry to TRAINING (R30): the count starts at 0 and a HELLO REQUEST is made. A raise still due at this boundary
concerned an earlier stay; a poll still due is made, since polling reads the state at the close of the frame (R40). -/
def State.enterTraining (i : SpokeId) (s : State) : State :=
  let t := (s.mapSpoke i fun r => { r with state := .training, elapsed := 0 }).mapLink i (·.request .hello)
  { t with due := { t.due with train := t.due.train.set i false } }

/-- Leaving TRAINING other than by loss of the link (R24, R31, R32): the count becomes 0, frames to next poll 1, no poll
outstanding, and a waiting HELLO REQUEST is removed (R22). The new state is set by the caller. -/
def State.endTraining (i : SpokeId) (s : State) : State :=
  let t := (s.mapSpoke i fun r => { r with elapsed := 0, nextPoll := 1, outstanding := false }).mapLink i
    fun l => { l with requests := l.requests.filter (· ≠ .hello) }
  { t with due := { t.due with train := t.due.train.set i false } }

/-- Whether the management port is UP. -/
def State.mgmtUp (s : State) : Bool := s.ports[s.mgmtPort]

end Sys2Proof.Machine
end

