-- ==== Sys2Proof/Machine/Fabric.lean ====
section
/-! DEFINITION. The Distribution Fabric (01): the frame-boundary latch, delay lines, attenuation, downlink copying, uplink
summing, energy, and one sample period of traffic. The feed commands are in FeedCommands. -/

namespace Sys2Proof.Machine

/-! ## The latch (R10 to R13) -/

/-- The carry set of a spoke, from the state as it stands (R10). -/
def State.carrySet (s : State) (i : SpokeId) : Cells :=
  if s.spokes[i].state = .live then
    match s.followedEntry i with
    | some e => e.cells
    | none => noCells
  else noCells

/-- The sum set of a spoke: the carry set if its settle count is 0, else empty (R11). -/
def State.sumSet (s : State) (i : SpokeId) : Cells :=
  if s.spokes[i].settle = 0 then s.carrySet i else noCells

/-- Whether a position keeps its line: the cell latched before and the cell latched now name one feed, or there is none
in both (R13). -/
def keepsFeed (old new : Option Cell) : Bool := old.map (·.feed) == new.map (·.feed)

/-- A position's lines after a latch: cleared where the feed named there has changed (R13). -/
def latchLines (old new : Vector Cells 32) (lines : Lines) : Lines :=
  tabulate fun i => tabulate fun k => if keepsFeed old[i][k] new[i][k] then lines[i][k] else []

/-- The latch (R10 to R13): carry sets, sum sets and feed states as they stand at the close of the frame. The
measurements of the frame in hand begin anew (R18, R19). -/
def State.latch (s : State) : Fabric :=
  let carry : Vector Cells 32 := tabulate s.carrySet
  let sum : Vector Cells 32 := tabulate s.sumSet
  { s.fabric with
    carry := carry
    sum := sum
    feedState := mapTable (·.state) s.feeds
    downLines := latchLines s.fabric.carry carry s.fabric.downLines
    upLines := latchLines s.fabric.sum sum s.fabric.upLines
    saturated := Vector.replicate 24 false
    energySum := Vector.replicate 32 0
    periods := 0
    lockedAtOpen := mapTable (·.locked) s.links }

/-! ## What the frame just ended gives (R18 to R20) -/

/-- The power scale: full scale on both components gives 65535; rounded down and limited (R19, R108). -/
def scalePower (sum count : Nat) : Nat := min 65535 (sum * 65535 / (count * (2 * 32767 ^ 2)))

/-- The energy of a spoke for the frame in hand (R19, R20): 0 where its link was not locked at both boundaries. The
samples are those of four positions in every sample period. -/
def State.energyOf (s : State) (i : SpokeId) : Nat :=
  if s.fabric.lockedAtOpen[i] && s.links[i].locked then scalePower s.fabric.energySum[i] (4 * s.fabric.periods) else 0

/-- CLIP for each feed whose sum saturated in the frame `clipped` tells of, in ascending feed order (R18). -/
def State.raiseClips (clipped : Vector Bool 24) (s : State) : State :=
  allFeeds.foldl (fun t f => if clipped[f] then t.raise chFeedTrouble (some f.val) .clip else t) s

/-! ## Samples -/

/-- The greatest magnitude whose lower half-step does not exceed `x · 10^(-a/40)`: the product rounded to the nearest
integer, halves away from zero (R14). Both sides are raised to the 40th power, so the comparison is exact; the bits
of the result are found from the highest down. -/
def attenuateMagnitude (a : Nat) (x : Nat) : Nat → Nat → Nat
  | 0, acc => acc
  | b + 1, acc =>
    let c := acc + 2 ^ b
    attenuateMagnitude a x b (if (2 * c - 1) ^ 40 * 10 ^ a ≤ (2 * x) ^ 40 then c else acc)

/-- Attenuation of one component by a code (R14). -/
def attenuateComponent (a : Fin 64) (z : Int) : Int :=
  let m : Int := attenuateMagnitude a.val z.natAbs 16 0
  if z < 0 then -m else m

/-- Attenuation of a sample by a code, each component of its own (R14). -/
def attenuate (a : Fin 64) (x : Sample) : Sample := ⟨attenuateComponent a x.i, attenuateComponent a x.q⟩

/-- A line without the zero samples at its old end. -/
def trimZeros (l : List Sample) : List Sample :=
  l.foldr (fun x acc => if x = .zero ∧ acc = [] then [] else x :: acc) []

/-- A sample written into a line, which holds the latest 256 (R13). -/
def pushSample (x : Sample) (l : List Sample) : List Sample := trimZeros ((x :: l).take 256)

/-- The output of a line at a trim: the sample written that many sample periods earlier (R13). -/
def tap (t : Fin 256) (l : List Sample) : Sample := l.getD t.val .zero

/-- The sum of two samples. -/
def Sample.add (x y : Sample) : Sample := ⟨x.i + y.i, x.q + y.q⟩

/-- The power of a sample: the sum of the squares of its components. -/
def Sample.power (x : Sample) : Nat := x.i.natAbs ^ 2 + x.q.natAbs ^ 2

/-- A component limited to full scale (R16). -/
def clipComponent (z : Int) : Int := max (-32767) (min 32767 z)

/-- A sum limited to full scale (R16). -/
def Sample.clip (x : Sample) : Sample := ⟨clipComponent x.i, clipComponent x.q⟩

/-- A feed whose downlink and sums run: latched ACTIVE with its port UP as it is now (R12, R14, R17). -/
def State.feedRuns (s : State) (f : FeedId) : Bool := s.fabric.feedState[f] == .active && s.ports[portOf f]

/-- The downlink sample of a feed that arrives in a sample period; zero where none arrives (R5). -/
def SamplePeriod.feed (p : SamplePeriod) (f : FeedId) : Sample := (p.feeds.lookup f).getD .zero

/-- The sample received at a position of a spoke link (R15): zero while the link is not locked and while a damaged
group lasts. -/
def State.received (s : State) (p : SamplePeriod) (i : SpokeId) (k : CellPos) : Sample :=
  if s.links[i].locked && s.links[i].damaged == 0 then (p.spokes.lookup (i, k)).getD .zero else .zero

/-- The downlink line of a position after a sample period (R14). -/
def State.downLine (s : State) (p : SamplePeriod) (i : SpokeId) (k : CellPos) : List Sample :=
  let line := s.fabric.downLines[i][k]
  match s.fabric.carry[i][k] with
  | some c => pushSample (if s.feedRuns c.feed then p.feed c.feed else .zero) line
  | none => line

/-- The sample a position sends, from its line after the write (R14). After a stop of the feed (its port DOWN, or MUTED) that
was shorter than the trim the line still holds samples written before it, and the position sends them when the feed runs
again, where R14 says zero samples for the trim's number of periods: the model's choice (log 31). -/
def State.downOut (s : State) (line : List Sample) (i : SpokeId) (k : CellPos) : Sample :=
  match s.fabric.carry[i][k] with
  | some c => if s.feedRuns c.feed then attenuate c.down (tap c.trim line) else .zero
  | none => .zero

/-- The uplink line of a position after a sample period: the sample received, or zero with no cell in the sum set
(R15). -/
def State.upLine (s : State) (p : SamplePeriod) (i : SpokeId) (k : CellPos) : List Sample :=
  let line := s.fabric.upLines[i][k]
  match s.fabric.sum[i][k] with
  | some _ => pushSample (s.received p i k) line
  | none => pushSample .zero line

/-- The contribution of a position to a feed's sum, from its line after the write (R15). -/
def State.contribution (s : State) (lines : Lines) (f : FeedId) (i : SpokeId) (k : CellPos) : Sample :=
  match s.fabric.sum[i][k] with
  | some c => if c.feed = f then attenuate c.up (tap c.trim lines[i][k]) else .zero
  | none => .zero

/-- The exact sum of all contributions to a feed (R16). -/
def State.exactSum (s : State) (lines : Lines) (f : FeedId) : Sample :=
  allSpokes.foldl (fun a i => allPositions.foldl (fun a k => a.add (s.contribution lines f i k)) a) .zero

/-- A collection takes the sample received at its position (R108). -/
def Collection.take (x : Sample) (c : Collection) : Collection :=
  { c with powerSum := c.powerSum + x.power
           samplesSeen := c.samplesSeen + 1
           powerPeak := max c.powerPeak x.power
           firstSamples := if c.firstSamples.length < 32 then c.firstSamples ++ [x] else c.firstSamples }

/-- One sample period of traffic (R13 to R17, R19, R108). -/
def State.samplePeriod (p : SamplePeriod) (s : State) : State :=
  let down : Lines := tabulate fun i => tabulate fun k => s.downLine p i k
  let up : Lines := tabulate fun i => tabulate fun k => s.upLine p i k
  let sums : Vector Sample 24 := tabulate fun f => s.exactSum up f
  let active (f : FeedId) : Bool := s.fabric.feedState[f] == .active
  { s with
    fabric := { s.fabric with
      downLines := down
      upLines := up
      spokeOut := tabulate fun i => tabulate fun k => s.downOut down[i][k] i k
      feedOut := tabulate fun f => if s.feedRuns f then sums[f].clip else .zero
      saturated := tabulate fun f => s.fabric.saturated[f] || (active f && sums[f].clip != sums[f])
      energySum := tabulate fun i =>
        allPositions.foldl (fun a k => a + (s.received p i k).power) s.fabric.energySum[i]
      periods := s.fabric.periods + 1 }
    capture := { s.capture with
      collection := s.capture.collection.map fun c => c.take (s.received p c.target.spoke c.target.pos) }
    links := mapTable (fun l => { l with damaged := l.damaged - 1 }) s.links }

end Sys2Proof.Machine
end

