-- ==== Sys2Proof/Machine/Formats.lean ====
section
/-! DEFINITION. The bytes of what the hub sends: responses, ALARM and CAPTURE notices with the detail bytes of each channel
(R167, R172), packed meters (R171) and packed RAW samples (R173), and node requests (R174). -/

namespace Sys2Proof.Machine

/-! ## Packing, most significant bit first -/

/-- The low `w` bits of a number, most significant first. -/
def bitsOf (n : Nat) : Nat → List Bool
  | 0 => []
  | w + 1 => n.testBit w :: bitsOf n w

/-- Eight bits as a byte, most significant first. -/
def byteOf (bits : List Bool) : Byte := BitVec.ofNat 8 (bits.foldl (fun a b => 2 * a + b.toNat) 0)

/-- Bits packed into bytes; a last byte that is not full is filled with 0. -/
def packBits : List Bool → List Byte
  | a :: b :: c :: d :: e :: f :: g :: h :: rest => byteOf [a, b, c, d, e, f, g, h] :: packBits rest
  | [] => []
  | rest => [byteOf ((rest ++ List.replicate 8 false).take 8)]

/-- The least shift up to `top` that a test accepts; `top` where it accepts none. -/
def leastShift (top : Nat) (fits : Nat → Bool) : Nat := ((List.range (top + 1)).find? fits).getD top

/-- The shift of METER READ: the least for which every meter divided by 2^s, rounded down, is 4095 or less (R171). -/
def meterShift (values : List Nat) : Nat := leastShift 4 fun s => values.all fun v => v / 2 ^ s ≤ 4095

/-- The stale field: bit i is the flag of the i-th entry (R171). -/
def staleField : List Bool → Nat
  | [] => 0
  | b :: bs => b.toNat + 2 * staleField bs

/-- METER READ's body after the status (R171). -/
def meterBody (meters : List Meter) : List Byte :=
  let s := meterShift (meters.map (·.value))
  u8 s ++ wordBytes (BitVec.ofNat 32 (staleField (meters.map (·.stale)))) ++
    packBits (meters.flatMap fun m => bitsOf (m.value / 2 ^ s) 12)

/-! ## ALARM notices (R172) -/

/-- HELLO 1, HEALTH 2, FAULT 3, CLEAR 4, UNREADABLE 0x0F (R172). -/
def overrunCode : ReportKind → Nat
  | .hello => 1
  | .health => 2
  | .fault => 3
  | .clear => 4
  | .unreadable => 0x0F

/-- The four detail bytes of a channel's entry (R172). -/
def Detail.bytes : Detail → List Byte
  | .none => u8 0 ++ u8 0 ++ u8 0 ++ u8 0
  | .faultCodes codes => u8 codes.toNat ++ u8 0 ++ u8 0 ++ u8 0
  | .isolation r => u8 r.code ++ u8 r.kindCode ++ u8 0 ++ u8 0
  | .energy e => u16 e ++ u8 0 ++ u8 0
  | .missedPolls n => u8 n ++ u8 0 ++ u8 0 ++ u8 0
  | .optical l => i16 l ++ u8 0 ++ u8 0
  | .errors n => u8 n ++ u8 0 ++ u8 0 ++ u8 0
  | .overrun k => u8 (overrunCode k) ++ u8 0 ++ u8 0 ++ u8 0
  | .crowdHigh load r => u24 load ++ u8 r.code
  | .crowdLow load => u24 load ++ u8 0
  | .cutoverEnd halted line folded origin => flag halted ++ u8 line ++ flag folded ++ u8 origin.code
  | .discardedTag t => [t] ++ u8 0 ++ u8 0 ++ u8 0
  | .storeEnd op place failed => u8 op ++ u8 place ++ flag failed ++ u8 0
  | .duration k len u cut => u8 (faultKindCode k) ++ u16 len ++ u8 (u.val + if cut then 128 else 0)
  | .silentPort => u8 1 ++ u8 0 ++ u8 0 ++ u8 0
  | .clip => u8 2 ++ u8 0 ++ u8 0 ++ u8 0

/-- An entry of eight bytes: source or 0xFF, first frame, count, detail (R172). -/
def SourceEntry.bytes (e : SourceEntry) : List Byte :=
  opt8 e.source ++ halfBytes e.first ++ u8 e.count ++ e.detail.bytes

/-! ## CAPTURE notices (R172, R173) -/

/-- The 64 components of a RAW result, in sample order, in-phase before quadrature. -/
def components (samples : List Sample) : List Int := samples.flatMap fun x => [x.i, x.q]

/-- The shift of a RAW result: the least for which every component divided by 2^s, rounded toward minus infinity, lies
between -32 and +31 (R173). -/
def rawShift (samples : List Sample) : Nat :=
  leastShift 10 fun s => (components samples).all fun z => -32 ≤ z / 2 ^ s ∧ z / 2 ^ s ≤ 31

/-- The RAW part: the shift and 48 bytes of six-bit components (R173). -/
def rawPart (samples : List Sample) : List Byte :=
  let s := rawShift samples
  u8 s ++ packBits ((components samples).flatMap fun z => bitsOf (BitVec.ofInt 6 (z / 2 ^ s)).toNat 6)

/-- The flags byte of a CAPTURE notice (R172). -/
def Result.flags (r : Result) : Nat :=
  r.target.pos.val + 4 * r.target.kind.code + 8 * r.servedSingle.toNat + 16 * r.servedContinuous.toNat +
    32 * (!r.complete).toNat

/-- The measured part of a CAPTURE notice; ZERO is -128 (section 10.3). -/
def Measured.bytes : Measured → List Byte
  | .power mean peak level => u16 mean ++ u16 peak ++ i8 (level.getD (-128))
  | .raw samples => rawPart samples

/-! ## Messages (R167, R168) -/

/-- A message as it is sent: kind 2 RESPONSE, kind 3 NOTICE with tag 0, notice codes 1 ALARM and 2 CAPTURE (R168). -/
def Message.bytes : Message → List Byte
  | .response tag code status body => envelope 2#2 code tag (u8 status.code ++ body)
  | .alarm ch part parts entries =>
    envelope 3#2 0x01#6 0#8 (u8 ch ++ u8 (16 * part + parts) ++ entries.flatMap SourceEntry.bytes)
  | .capture r missed =>
    envelope 3#2 0x02#6 0#8
      (u8 r.target.spoke ++ u8 r.flags ++ halfBytes r.frame ++ u8 missed ++ r.measured.bytes)

/-- Whether a message is a notice. -/
def Message.isNotice : Message → Bool
  | .response _ _ _ _ => false
  | .alarm _ _ _ _ | .capture _ _ => true

/-- A request to a node as it is sent: HELLO REQUEST 0x81, HEALTH POLL 0x82, five bytes (R174). -/
def Request.bytes : Request → List Byte
  | .hello => withCheck [reportLead, 5#8, 0x81#8]
  | .healthPoll => withCheck [reportLead, 5#8, 0x82#8]

end Sys2Proof.Machine
end

