-- ==== Sys2Proof/WellFormed.lean ====
section
/-! DEFINITION. Well-formed steps: the counts of list operands (R58, R59, R70, R81, R96, R157), the marks of
COMMAND_UNKNOWN and COMMAND_MALFORMED (R157), and the extents of the receivers' events. -/

namespace Sys2Proof

/-- Whether a step could be sent: a list operand within its stated count, a mark that fits its code, an event with an
extent. Values of operands are not checked here: the hub itself answers RANGE (R170). -/
def Instr.wf : Instr → Bool
  | .planCell _ _ es => 1 ≤ es.length && es.length ≤ 8
  | .planExpect _ _ ps => 1 ≤ ps.length && ps.length ≤ 16
  | .trim _ vs => 1 ≤ vs.length && vs.length ≤ 48
  | .sweepOrder _ o => o.length == 32
  | .meterRead _ ss => 1 ≤ ss.length && ss.length ≤ 32
  | .commandUnknown _ c => !isCommandCode c
  | .commandMalformed _ c => isCommandCode c
  | .commandComplete bytes => !bytes.isEmpty && bytes.length ≤ 64
  | .reportComplete _ bytes => !bytes.isEmpty && bytes.length ≤ 12
  | .sampleGroupDamaged _ n => 1 ≤ n
  | .powerOnReset _ | .frameBoundary _ | .timebaseRelock _ _ | .carrierPortLock _ | .carrierPortLoss _
  | .spokeLinkLock _ | .spokeLinkLoss _ | .nodeRequestSend _ | .reportTake | .helloRequestRepeat _
  | .trainingLimit _ | .settleEnd _ | .healthPollDue _ | .crowdedEntry _ | .groupCalm _ | .cutoverStep
  | .persistQualify _ _ | .qualifierWindowEnd _ _ | .captureCollectionEnd | .captureCollectionStart
  | .captureNoticeEnqueue | .alarmPresentation | .startupReadEnd | .storeEraseEnd _ | .storeWriteEnd _
  | .storeLockEnd | .assemblyAbandon | .commandResponseTaken | .resyncResponseTaken | .messageLeaves
  | .hubResetEffect | .feedSet _ _ _ _ _ _ | .feedRead _ _ | .spokeIsolate _ _ | .spokeRestore _ _
  | .spokeQuiet _ _ | .spokeWake _ _ | .spokeRetrain _ _ | .spokeRearm _ _ | .spokeRead _ _ | .pollSet _ _
  | .planOpen _ _ | .planEdit _ _ | .planClose _ _ | .planDrop _ _ | .planRead _ _ _ | .trimPoint _ _ _ _
  | .bankBind _ _ _ | .bankRelease _ _ | .cutover _ _ _ _ _ | .halt _ | .fold _ | .cutoverRead _
  | .watchSet _ _ _ _ _ _ _ _ _ _ | .watchOff _ _ | .watchRead _ _ | .capture _ _ _ _ _ _ | .captureStop _
  | .qualify _ _ _ _ _ _ _ _ | .qualifyRead _ _ _ | .alarmEnable _ _ _ | .alarmMask _ _ _ | .alarmTrack _ _
  | .alarmDone _ _ | .alarmRead _ _ _ | .storeRead _ _ | .storeErase _ _ | .storeWrite _ _ _ _ _ _
  | .storeLock _ | .resync _ | .hubStatus _ | .hubReset _ | .inboundByte _ | .reportLeadByte _ => true

end Sys2Proof
end

