-- ==== Sys2Proof/Machine/Lane.lean ====
section
/-! DEFINITION. The Management Lane (09): assembly and sorting of commands, the intake queue, RESYNC, the execution of a
command by the Command Unit, and the claims on the Outbound Queue's places. -/

namespace Sys2Proof.Machine

/-! ## The Outbound Queue (R162, R163) -/

/-- The free places: eight less the messages held (R162). -/
def Lane.free (l : Lane) : Nat := 8 - l.outbound.length

/-- A message enters at the tail. -/
def Lane.enqueue (m : Message) (l : Lane) : Lane := { l with outbound := l.outbound ++ [m] }

/-- The claim of the RESYNC response holder (R163). -/
def Lane.takeHolder (l : Lane) : Lane :=
  match l.holder with
  | some m => if 1 ≤ l.free then { l.enqueue m with holder := none } else l
  | none => l

/-- The claim of a HOLDING Command Unit, which becomes READY when it is taken (R160, R163). -/
def Lane.takeHeld (l : Lane) : Lane :=
  match l.held with
  | some m => if 1 ≤ l.free then { l.enqueue m with held := none } else l
  | none => l

/-- The two responses' claims in the order of R163's table. -/
def Lane.takeResponses (l : Lane) : Lane := l.takeHolder.takeHeld

/-- Whether neither response waits for a place. -/
def Lane.noResponseWaits (l : Lane) : Bool := l.holder.isNone && l.held.isNone

/-! ## The Intake (R156 to R159) -/

/-- The lane changed. -/
def State.mapLane (f : Lane → Lane) (s : State) : State := { s with lane := f s.lane }

/-- A completed command reaches the intake queue (R158). -/
def State.offer (i : Instr) (s : State) : State :=
  if s.lane.overrun then s.mapLane fun l => { l with discards := min 255 (l.discards + 1) }
  else if s.lane.intake.length < 2 then s.mapLane fun l => { l with intake := l.intake ++ [i] }
  else (s.mapLane fun l => { l with overrun := true, firstTag := some i.tag, discards := 1 }).raise
    chIntakeOverrun none (.discardedTag i.tag)

/-- RESYNC's response: a presence byte, the first discarded tag and the discard count; none and 0 when the latch was
clear (R159, R170). -/
def Lane.resyncResponse (tag : Byte) (l : Lane) : Message :=
  let first := if l.overrun then l.firstTag else none
  .response tag 0x3C#6 .done (present8 (first.map (·.toNat)) ++ u8 (if l.overrun then l.discards else 0))

/-- RESYNC (R159): the figures are answered and cleared; the response goes to the holder, where it replaces an earlier
one that no place has taken, and from there into the queue if a place is free (R163). -/
def Lane.resync (tag : Byte) (l : Lane) : Lane :=
  ({ l.takeResponses with
      overrun := false, firstTag := none, discards := 0, holder := some (l.resyncResponse tag) }).takeResponses

/-- A completed command is taken: a well-formed RESYNC at the Intake, every other by the intake queue (R157). -/
def State.takeCommand (i : Instr) (s : State) : State :=
  match i with
  | .resync tag => s.mapLane (·.resync tag)
  | _ => s.offer i

/-- The message that a run of complete bytes holds, if it is a completed command (R156, R157, R168). -/
def commandIn (bytes : List Byte) : Option Instr :=
  match bytes with
  | _ :: _ :: kc :: tag :: rest =>
    if checkPasses bytes && kc.extractLsb' 6 2 == 1#2 then
      some (commandOf tag (kc.extractLsb' 0 6) (rest.take (rest.length - 2)))
    else none
  | _ => none

/-- A message completes (R156): a completed command is taken, every other message is discarded unanswered. -/
def State.completeMessage (bytes : List Byte) (s : State) : State :=
  let t := s.mapLane fun l => { l with assembly := none }
  match commandIn bytes with
  | some i => t.takeCommand i
  | none => t

/-- The abandoning of a starved assembly as a turn of the boundary in hand (R156). -/
def State.abandonTurn (s : State) : State :=
  if s.due.abandon then
    { s with due := { s.due with abandon := false }, lane := { s.lane with assembly := none } }
  else s

/-- The Intake takes a byte (R156): outside an assembly only a lead byte counts; the byte after it is the length. -/
def State.intakeByte (b : Byte) (s : State) : State :=
  match s.lane.assembly with
  | none =>
    if b = messageLead then s.mapLane fun l => { l with assembly := some [b], fed := true } else s
  | some [lead] =>
    if 6 ≤ b.toNat ∧ b.toNat ≤ 64 then s.mapLane fun l => { l with assembly := some [lead, b], fed := true }
    else s.mapLane fun l => { l with assembly := none }
  | some bytes =>
    let all := bytes ++ [b]
    if all.length = (bytes.getD 1 0#8).toNat then s.completeMessage all
    else s.mapLane fun l => { l with assembly := some all, fed := true }

/-- A byte arrives on the service lane of the management port (R155): none arrives while the port is DOWN (R164), and no
more than 256 in one frame. An assembly that the last boundary found starved is abandoned first. -/
def State.inboundByte (b : Byte) (s : State) : State :=
  if s.mgmtUp && decide (s.lane.received < 256) then
    (s.abandonTurn.mapLane fun l => { l with received := l.received + 1 }).intakeByte b
  else s

/-! ## The Command Unit (R160, R161) -/

/-- What the execution of a command makes: the answer and the state. A refusal keeps the state it found. -/
structure Reply where
  status : Status
  body   : List Byte
  state  : State
deriving DecidableEq, Repr

/-- A refusal: its status alone, and nothing changed (R161, R170). -/
def State.refuse (st : Status) (s : State) : Reply := ⟨st, [], s⟩

/-- An answer DONE with a body, and nothing changed. -/
def State.answer (body : List Byte) (s : State) : Reply := ⟨.done, body, s⟩

/-- A command that acted in full, with an empty body. -/
def State.doneWith (s : State) : Reply := ⟨.done, [], s⟩

/-- The commands executed during the start-up read: HUB STATUS and STORE READ (R160). One marked MALFORMED or UNKNOWN is
left waiting as any other command; that a HUB STATUS or a STORE READ marked MALFORMED is so left is DESIGN CHOICE (log
30), since R160 does not say it. -/
def runsAtStartup : Instr → Bool
  | .hubStatus _ | .storeRead _ _ => true
  | _ => false

/-- Whether the Command Unit may take a command: READY, no HUB RESET executed (R166), and the start-up read over unless
the command runs during it (R160). -/
def State.canTake (s : State) (i : Instr) : Bool :=
  s.lane.held.isNone && !s.lane.resetArmed && (s.store.engine != .reading || runsAtStartup i)

/-- A response is made (R160, R163, R164): dropped while the management port is DOWN, else taken into the queue at once
where there is room after a waiting RESYNC response, else held. -/
def State.deliver (m : Message) (s : State) : State :=
  if s.mgmtUp then s.mapLane fun l => ({ l with held := some m }).takeResponses else s

/-- The Command Unit executes a command and makes its response as part of the same event (R160). A command outside its
stated counts has a length its code does not allow (R157). -/
def State.run (i : Instr) (act : State → Reply) (s : State) : State :=
  let r := if i.wf then act s else s.refuse .malformed
  r.state.deliver (.response i.tag i.code r.status r.body)

/-- A command's whole message can arrive (R155, R156): the management port is UP, no other message is arriving (one that
the last boundary found starved is abandoned), and the message is no longer than 64 bytes nor than what is left of the
frame's 256. -/
def State.hears (s : State) (i : Instr) : Bool :=
  s.mgmtUp && (s.lane.assembly.isNone || s.due.abandon) && decide (i.messageBytes.length ≤ 64) &&
    decide (s.lane.received + i.messageBytes.length ≤ 256)

/-- The bytes of a command's message arrive (R155); a starved assembly is abandoned first. -/
def State.receive (i : Instr) (s : State) : State :=
  s.abandonTurn.mapLane fun l => { l with received := l.received + i.messageBytes.length }

/-- A command that is not at the head of the intake queue arrives. -/
def State.arrive (i : Instr) (s : State) : State := if s.hears i then (s.receive i).offer i else s

/-- The state in which the Command Unit has taken a command, none where it cannot (R160, log 8): the command stands at
the head of the intake queue and leaves it, or it arrives as the queue is empty and is taken at once. -/
def State.claim (i : Instr) (s : State) : Option State :=
  if s.canTake i then
    match s.lane.intake with
    | j :: rest => if j = i then some (s.mapLane fun l => { l with intake := rest }) else none
    | [] => if s.hears i && !s.lane.overrun then some (s.receive i) else none
  else none

/-- A management command as a step (log 8): taken and executed where the Command Unit can take it; left waiting where it
stands at the head of the intake queue; else it arrives behind others. -/
def State.command (i : Instr) (act : State → Reply) (s : State) : State :=
  match s.claim i with
  | some t => t.run i act
  | none => if s.lane.intake.head? = some i then s else s.arrive i

/-! ## Events of the lane -/

/-- The response of a HOLDING unit is taken (R160, R163); a waiting RESYNC response goes before it. -/
def State.responseTaken (s : State) : State :=
  if s.mgmtUp && s.lane.holder.isNone then s.mapLane (·.takeHeld) else s

/-- The RESYNC response is taken (R163). -/
def State.resyncTaken (s : State) : State := if s.mgmtUp then s.mapLane (·.takeHolder) else s

/-- RESYNC completes at the Intake. -/
def State.resyncArrives (tag : Byte) (s : State) : State :=
  if s.hears (.resync tag) then (s.receive (.resync tag)).mapLane (·.resync tag) else s

/-- What follows the head: the oldest message has left and its place is free (R162). -/
def Lane.leave (l : Lane) : Lane :=
  match l.outbound with
  | m :: rest =>
    { l with outbound := rest, wire := m.bytes, sent := l.sent + (m.bytes.length - l.headSent), headSent := 0 }
  | [] => l

/-- Whether the oldest message's last byte can be sent in this frame (R155: at most 256 bytes in each frame). -/
def Lane.canLeave (l : Lane) : Bool :=
  match l.outbound with
  | m :: _ => l.sent + (m.bytes.length - l.headSent) ≤ 256
  | [] => false

/-- The frame's end on the lane (R155, R162): the counts of bytes begin anew, and what is left of the frame's 256 bytes
went to the oldest message, all but its last byte at most. -/
def Lane.nextFrame (l : Lane) : Lane :=
  let carried : Nat :=
    match l.outbound with
    | m :: _ => min (m.bytes.length - 1) (l.headSent + (256 - l.sent))
    | [] => 0
  { l with fed := false, received := 0, sent := 0, headSent := carried }

/-- Whether the oldest message is the response of an executed HUB RESET (R166). -/
def Lane.resetAtHead (l : Lane) : Bool :=
  match l.outbound with
  | .response _ code st _ :: _ => l.resetArmed && code == 0x3E#6 && st == .done
  | _ => false

end Sys2Proof.Machine
end

