-- ==== Sys2Proof/Machine/Qualifier.lean ====
section
/-! DEFINITION. The Fault Qualifier (06): conditions, modes, qualification and its action, and departure to DARK. The
commands QUALIFY and QUALIFY READ are in QualifierCommands. -/

namespace Sys2Proof.Machine

/-- The settings of a kind. -/
def State.settingsOf (s : State) (k : FaultKind) : Settings := s.settings[kindIndex k]

/-- The record of a spoke and kind (R116). -/
def State.qual (s : State) (i : SpokeId) (k : FaultKind) : QualRec := s.quals[i][kindIndex k]

/-- The record of a spoke and kind replaced. -/
def State.setQual (i : SpokeId) (k : FaultKind) (q : QualRec) (s : State) : State :=
  { s with quals := update s.quals i fun row => row.set (kindIndex k) q }

/-- A return to IDLE: every number 0, seen kept (R116). -/
def QualRec.idle (q : QualRec) : QualRec := { QualRec.reset with seen := q.seen }

/-- A qualification (R122, R123): the kind's channel is raised, then, with action ISOLATE, isolation is requested. -/
def State.qualify (i : SpokeId) (k : FaultKind) (detail : Detail) (s : State) : State :=
  let t := s.raise (kindChannel k) (some i.val) detail
  if (s.settingsOf k).isolate then t.isolate i (.fault k) else t

/-! ## FRAME_ERRORS (R112, R117, R119) -/

/-- An event opens a window; it qualifies at once if N is 1 (R119). -/
def openWindow (st : Settings) (q : QualRec) : QualRec :=
  { q with state := if st.n = 1 then .qualified else .armed, count := 1, window := st.window * unitFrames st.unit }

/-- One FRAME_ERRORS event at a spoke's record (R112): by IMMEDIATE each event qualifies with detail 1 and the record
stays IDLE (R117); by COUNT the N-th event of a window qualifies with detail N (R119). A spoke in DARK hands none. -/
def State.frameErrors (i : SpokeId) (s : State) : State :=
  let st := s.settingsOf .frameErrors
  let q := s.qual i .frameErrors
  if s.spokes[i].state = .dark then s else
  match st.mode with
  | .immediate => s.qualify i .frameErrors (.errors 1)
  | .count =>
    match q.state with
    | .idle =>
      let t := s.setQual i .frameErrors (openWindow st q)
      if st.n = 1 then t.qualify i .frameErrors (.errors 1) else t
    | .armed =>
      if q.count + 1 = st.n then
        (s.setQual i .frameErrors { q with state := .qualified, count := q.count + 1 }).qualify i .frameErrors
          (.errors (q.count + 1))
      else s.setQual i .frameErrors { q with count := q.count + 1 }
    | .qualified | .measuring => s
  | .persist | .duration => s

/-- A frame boundary at a FRAME_ERRORS record (R119): an open window is lowered by 1 and ends at 0. -/
def State.frameErrorsBoundary (i : SpokeId) (s : State) : State :=
  let q := s.qual i .frameErrors
  match q.state with
  | .armed | .qualified =>
    s.setQual i .frameErrors (if q.window ≤ 1 then q.idle else { q with window := q.window - 1 })
  | .idle | .measuring => s

/-! ## Conditions (R113) -/

/-- Whether a condition kind holds for a spoke, from the values as they stand (R113). -/
def State.holds (s : State) (i : SpokeId) : FaultKind → Bool
  | .frameErrors => false
  | .uplinkOverload => ((s.settingsOf .uplinkOverload).level.getD 65535) < (s.handed[i] : Int)
  | .nodeSilent => s.spokes[i].missed == 3
  | .nodeFault => s.spokes[i].faults != 0
  | .opticalLow =>
    match s.spokes[i].optical, (s.settingsOf .opticalLow).level with
    | some l, some floor => l < floor
    | _, _ => false

/-- The detail of a condition kind's qualification (R122). -/
def State.conditionDetail (s : State) (i : SpokeId) : FaultKind → Detail
  | .frameErrors => .errors 1
  | .uplinkOverload => .energy s.handed[i]
  | .nodeSilent => .missedPolls s.spokes[i].missed
  | .nodeFault => .faultCodes s.spokes[i].faults
  | .opticalLow => .optical (s.spokes[i].optical.getD 0)

/-- What one evaluation makes of a record: the record after it, whether it qualifies, and the frames measured by a
measurement that ends. -/
structure Evaluated where
  record    : QualRec
  qualifies : Bool
  measured  : Option Nat
deriving DecidableEq, Repr

/-- The rules of a mode for a condition kind (R117, R118, R120, R121), on a record whose seen mark is not yet changed.
`training` is an evaluation in TRAINING, where the condition is taken as not holding and a measurement does not rise. -/
def evaluateRecord (st : Settings) (holds training : Bool) (q : QualRec) : Evaluated :=
  let onset := holds && !q.seen
  let keep : Evaluated := ⟨q, false, none⟩
  let back : Evaluated := ⟨q.idle, false, none⟩
  match st.mode, q.state with
  | .immediate, .idle => if onset then ⟨{ q with state := .qualified }, true, none⟩ else keep
  | .persist, .idle => if onset then ⟨{ q with state := .armed, held := 0 }, false, none⟩ else keep
  | .persist, .armed =>
    if holds then
      if q.held + 1 = st.n * unitFrames st.unit then
        ⟨{ q with state := .qualified, held := q.held + 1 }, true, none⟩
      else ⟨{ q with held := q.held + 1 }, false, none⟩
    else back
  | .count, .idle => if onset then ⟨openWindow st q, st.n == 1, none⟩ else keep
  | .count, .armed =>
    if q.window ≤ 1 then
      if onset then ⟨openWindow st q.idle, st.n == 1, none⟩ else back
    else if onset then
      if q.count + 1 = st.n then
        ⟨{ q with state := .qualified, count := q.count + 1, window := q.window - 1 }, true, none⟩
      else ⟨{ q with count := q.count + 1, window := q.window - 1 }, false, none⟩
    else ⟨{ q with window := q.window - 1 }, false, none⟩
  | .duration, .idle => if onset then ⟨{ q with state := .measuring, measured := 0 }, false, none⟩ else keep
  | .duration, .measuring =>
    let m := min (65535 * unitFrames st.unit) (q.measured + 1)
    if holds then ⟨{ q with measured := m }, false, none⟩
    else ⟨q.idle, false, some (if training then q.measured else m)⟩
  | .immediate, .qualified | .persist, .qualified | .count, .qualified => if holds then keep else back
  | .immediate, .armed | .immediate, .measuring | .persist, .measuring | .count, .measuring
  | .duration, .armed | .duration, .qualified => keep

/-- The report of a measurement that ended (R121, R124): the length in units, rounded down. -/
def State.raiseDuration (i : SpokeId) (k : FaultKind) (measured : Nat) (cutShort : Bool) (s : State) : State :=
  let u := (s.settingsOf k).unit
  s.raise chDuration (some i.val) (.duration k (measured / unitFrames u) u cutShort)

/-- What the evaluation of a spoke and condition kind would make of its record now (R114). -/
def State.evaluation (s : State) (i : SpokeId) (k : FaultKind) : Evaluated :=
  let training := s.spokes[i].state = .training
  evaluateRecord (s.settingsOf k) (!training && s.holds i k) training (s.qual i k)

/-- The evaluation of one condition kind at one spoke (R114): the mode's rules, then seen takes the result. -/
def State.evaluateCondition (i : SpokeId) (k : FaultKind) (s : State) : State :=
  let training : Bool := s.spokes[i].state = .training
  let holds := !training && s.holds i k
  let e := s.evaluation i k
  let t := s.setQual i k { e.record with seen := holds }
  let t := match e.measured with
    | some m => t.raiseDuration i k m training
    | none => t
  if e.qualifies then t.qualify i k (s.conditionDetail i k) else t

/-- One kind's part of the Qualifier's taking of a frame boundary for one spoke (R114): a spoke in DARK is passed over. -/
def State.evaluate (i : SpokeId) (k : FaultKind) (s : State) : State :=
  if s.spokes[i].state = .dark then s else
  match k with
  | .frameErrors => s.frameErrorsBoundary i
  | .uplinkOverload | .nodeSilent | .nodeFault | .opticalLow => s.evaluateCondition i k

/-- The Qualifier's taking of a frame boundary for one spoke, one event for all its kinds (R114), in the order of R172
(log 11). What one kind's action changes is nothing that another kind's condition reads (R113). -/
def State.evaluateSpoke (i : SpokeId) (s : State) : State := allKinds.foldl (fun t k => t.evaluate i k) s

/-- That event as a turn of the boundary in hand. -/
def State.evaluateTurn (i : SpokeId) (s : State) : State :=
  if s.due.eval[i] then { s with due := { s.due with eval := s.due.eval.set i false } }.evaluateSpoke i else s

/-- The evaluation would qualify by PERSIST: the row PERSIST_QUALIFY (R118). -/
def State.persistWouldQualify (s : State) (i : SpokeId) (k : FaultKind) : Bool :=
  (s.settingsOf k).mode == .persist && k != .frameErrors && (s.evaluation i k).qualifies

/-- The boundary would run out a COUNT-mode window: the row QUALIFIER_WINDOW_END (R119, R120). -/
def State.windowWouldEnd (s : State) (i : SpokeId) (k : FaultKind) : Bool :=
  let q := s.qual i k
  (s.settingsOf k).mode == .count && decide (q.window ≤ 1) &&
    (q.state == .armed || (k == .frameErrors && q.state == .qualified))

/-- An evaluation of a spoke that a row of the table stands for: PERSIST_QUALIFY or QUALIFIER_WINDOW_END at one of its
kinds. -/
def State.evaluationHasRow (s : State) (i : SpokeId) : Bool :=
  allKinds.any fun k => s.persistWouldQualify i k || s.windowWouldEnd i k

/-! ## Departure to DARK (R124) -/

/-- One kind's record at the spoke's entry to DARK: a measurement is cut short, and the record returns to IDLE with
seen no. -/
def State.darkenKind (i : SpokeId) (s : State) (k : FaultKind) : State :=
  let q := s.qual i k
  let t := if q.state = .measuring then s.raiseDuration i k q.measured true else s
  t.setQual i k .reset

/-- All five records of a spoke at its entry to DARK (R124); the boundary in hand has no evaluation left for it. -/
def State.darkenQuals (i : SpokeId) (s : State) : State :=
  let t := allKinds.foldl (State.darkenKind i) s
  { t with due := { t.due with eval := t.due.eval.set i false } }

end Sys2Proof.Machine
end

