-- ==== Sys2Proof/Machine/QualifierCommands.lean ====
section
/-! DEFINITION. QUALIFY and QUALIFY READ (06, section 6.8). -/

namespace Sys2Proof.Machine

/-- A kind's level: an energy for UPLINK_OVERLOAD, a floor from -300 to 50 for OPTICAL_LOW; the level of another kind is
not checked and not kept (R126). The outer none is RANGE. -/
def levelOf (k : FaultKind) (level : Half) : Option (Option Int) :=
  match k with
  | .uplinkOverload => some (some level.toNat)
  | .opticalLow => if -300 ≤ level.toInt ∧ level.toInt ≤ 50 then some (some level.toInt) else none
  | .frameErrors | .nodeSilent | .nodeFault => some none

/-- Whether a kind takes a mode (R126): FRAME_ERRORS is IMMEDIATE or COUNT. -/
def kindTakes (k : FaultKind) (m : Mode) : Bool :=
  match k, m with
  | .frameErrors, .persist | .frameErrors, .duration => false
  | _, _ => true

/-- QUALIFY's operands as a kind and its settings; none is RANGE (R126). -/
def qualifyOf (kind mode count window unit action : Byte) (level : Half) : Option (FaultKind × Settings) :=
  match faultKindOf kind, modeOf mode, within 1 255 count.toNat, within 1 255 window.toNat, below 4 unit, flagOf action with
  | some k, some m, some n, some w, some u, some a =>
    match levelOf k level with
    | some l => if kindTakes k m then some (k, ⟨m, n, w, u, a, l⟩) else none
    | none => none
  | _, _, _, _, _, _ => none

/-- QUALIFY (R126): the settings are written whole, and every spoke's record for the kind returns to IDLE, seen no. -/
def State.qualifySet (kind mode count window unit action : Byte) (level : Half) (s : State) : Reply :=
  match qualifyOf kind mode count window unit action level with
  | none => s.refuse .range
  | some (k, st) =>
    { s with settings := s.settings.set (kindIndex k) st
             quals := mapTable (fun row : Vector QualRec 5 => row.set (kindIndex k) .reset) s.quals }.doneWith

/-- A kind's level as stored: a presence byte and two bytes, 0 when absent (R127, log 9). -/
def levelBytes : Option Int → List Byte
  | some l => flag true ++ i16 l
  | none => flag false ++ i16 0

/-- The seen mark; absent for FRAME_ERRORS (R127). -/
def seenBytes (k : FaultKind) (q : QualRec) : List Byte := if k = .frameErrors then u8 0xFF else flag q.seen

/-- QUALIFY READ (R127). -/
def State.qualifyRead (kind spoke : Byte) (s : State) : Reply :=
  match faultKindOf kind, below 32 spoke with
  | some k, some i =>
    let st := s.settingsOf k
    let q := s.qual i k
    s.answer (u8 (faultKindCode k) ++ u8 st.mode.code ++ u8 st.n ++ u8 st.window ++ u8 st.unit ++ flag st.isolate ++
      levelBytes st.level ++ u8 i ++ u8 q.state.code ++ seenBytes k q ++ u8 q.count ++ u16 q.window ++ u16 q.held ++
      u24 q.measured ++ u16 (q.measured / unitFrames st.unit))
  | _, _ => s.refuse .range

/-- QUALIFY -/
def execQualify (tag kind mode count window unit action : Byte) (level : Half) (s : State) :
    Host.Outcome State Fault Refusal :=
  .next (s.command (.qualify tag kind mode count window unit action level)
    (State.qualifySet kind mode count window unit action level))

/-- QUALIFY READ -/
def execQualifyRead (tag kind spoke : Byte) (s : State) : Host.Outcome State Fault Refusal :=
  .next (s.command (.qualifyRead tag kind spoke) (State.qualifyRead kind spoke))

end Sys2Proof.Machine
end

