-- ==== Sys2Proof/Config.lean ====
section
/-! DEFINITION. What one part fixes (part code, revision), and the free value of the model. -/

namespace Sys2Proof

/-- The part code (00_scope.md, R165). -/
def Config.partCode : Nat := 0x460

/-- The revision (00_scope.md, R165). -/
def Config.revision : Nat := 1

/-- FREE VALUE (log 6): whether the n-th store operation whose end no row has brought reads back as written
(R151, R152: the manual gives both outcomes and does not say which comes). Nothing constrains it. -/
opaque Config.readBack : Nat → Bool

end Sys2Proof
end

