-- ==== Sys2Proof/Machine/Alarm.lean ====
section
/-! DEFINITION. The Alarm Unit (07): candidates and presentation, the return of unsent notices, and the alarm commands. -/

namespace Sys2Proof.Machine

/-- The channels, the most urgent first. -/
def allChannels : List ChannelId := (List.finRange 16).reverse

/-! ## Presentation (R132, R133) -/

/-- Whether tracking lets a channel be presented: it lies above every channel in service (R132). -/
def State.aboveService (s : State) (c : ChannelId) : Bool :=
  !s.tracking || allChannels.all fun d => !s.channels[d].inService || decide (d < c)

/-- A candidate (R132). -/
def State.candidate (s : State) (c : ChannelId) : Bool :=
  s.channels[c].pending && !s.channels[c].masked && s.aboveService c

/-- The chosen channel: the candidate with the highest number (R132). -/
def State.chosen (s : State) : Option ChannelId := allChannels.find? s.candidate

/-- The messages a list needs: its entries divided by 6 and rounded up (R133). -/
def partsOf (l : List SourceEntry) : Nat := (l.length + 5) / 6

/-- The notice messages of a list, part 1 first, up to six entries in each (R133). -/
def noticeMessages (c : ChannelId) (l : List SourceEntry) : List Message :=
  (List.range (partsOf l)).map fun p => .alarm c (p + 1) (partsOf l) ((l.drop (6 * p)).take 6)

/-- The other source's turn (R163). -/
def NoticeTurn.other : NoticeTurn → NoticeTurn
  | .alarm => .capture
  | .capture => .alarm

/-- Whether the ALARM notice of a channel may be taken now (R133, R163): the port UP, its room free, no response waiting
for a place, and the turn its own or no CAPTURE notice waiting. -/
def State.mayPresent (s : State) (c : ChannelId) : Bool :=
  s.mgmtUp && s.lane.noResponseWaits && decide (partsOf s.channels[c].list + 2 ≤ s.lane.free) &&
    (s.lane.turn == .alarm || s.capture.buffer.isNone)

/-- A channel is presented (R133): its messages enter the queue, its list becomes empty, and with tracking on it is in
service; the turn passes to the other source (R163). -/
def State.presentChannel (c : ChannelId) (s : State) : State :=
  { s with
    lane := { s.lane with outbound := s.lane.outbound ++ noticeMessages c s.channels[c].list, turn := .capture }
    channels := update s.channels c fun ch => { ch with list := [], inService := s.tracking || ch.inService } }

/-- The presentation of the chosen channel, where its occasion holds (R132, R133). -/
def State.present (s : State) : State :=
  match s.chosen with
  | some c => if s.mayPresent c then s.presentChannel c else s
  | none => s

/-! ## Notices handed back (R135) -/

/-- An entry merged into a list: a source that stands there keeps its place and first frame, the counts are added up to
255, and the later detail stays. -/
def absorb (e : SourceEntry) : List SourceEntry → List SourceEntry
  | [] => [e]
  | x :: xs =>
    if x.source = e.source then { x with count := min 255 (x.count + e.count), detail := e.detail } :: xs
    else x :: absorb e xs

/-- A list with each source once, at the place of its earliest entry (R135). -/
def mergeEntries (l : List SourceEntry) : List SourceEntry := l.foldl (fun acc e => absorb e acc) []

/-- The entries of a channel's notice messages, in queue order. -/
def entriesOf (c : ChannelId) (queue : List Message) : List SourceEntry :=
  queue.flatMap fun
    | .alarm d _ _ es => if d = c then es else []
    | .response _ _ _ _ | .capture _ _ => []

/-- A channel to which entries are handed back (R135): a disabled channel discards them; an enabled one is no longer in
service and lists them before what it has gathered since. -/
def Channel.handBack (back : List SourceEntry) (ch : Channel) : Channel :=
  if ch.enabled && !back.isEmpty then { ch with inService := false, list := mergeEntries (back ++ ch.list) } else ch

/-- Every unsent ALARM notice message handed back to its channel (R135). -/
def State.handBackAll (s : State) : State :=
  { s with channels := tabulate fun c => s.channels[c].handBack (entriesOf c s.lane.outbound) }

/-! ## Alarm commands (R136 to R140) -/

/-- ALARM ENABLE at one channel (R136). -/
def Channel.setEnabled (on off : Bool) (ch : Channel) : Channel :=
  if off then { ch with enabled := false, list := [] } else if on then { ch with enabled := true } else ch

/-- ALARM ENABLE (R136). -/
def State.alarmEnable (on off : Half) (s : State) : Reply :=
  if on &&& off ≠ 0#16 then s.refuse .range else
    { s with channels := tabulate fun c => s.channels[c].setEnabled (on.getLsbD c) (off.getLsbD c) }.doneWith

/-- ALARM MASK at one channel (R137). -/
def Channel.setMasked (mask unmask : Bool) (ch : Channel) : Channel :=
  if mask then { ch with masked := true } else if unmask then { ch with masked := false } else ch

/-- ALARM MASK (R137). -/
def State.alarmMask (mask unmask : Half) (s : State) : Reply :=
  if mask &&& unmask ≠ 0#16 then s.refuse .range else
    { s with channels := tabulate fun c => s.channels[c].setMasked (mask.getLsbD c) (unmask.getLsbD c) }.doneWith

/-- ALARM TRACK (R138): off clears every in-service item. -/
def State.alarmTrack (setting : Byte) (s : State) : Reply :=
  match flagOf setting with
  | none => s.refuse .range
  | some true => { s with tracking := true }.doneWith
  | some false =>
    { s with tracking := false, channels := mapTable (fun ch : Channel => { ch with inService := false }) s.channels }.doneWith

/-- ALARM DONE (R139). -/
def State.alarmDone (channel : Byte) (s : State) : Reply :=
  match below 16 channel with
  | none => s.refuse .range
  | some c =>
    if s.channels[c].inService then
      { s with channels := update s.channels c fun ch => { ch with inService := false } }.doneWith
    else s.refuse .notInService

/-- ALARM READ (R140). Six entries make a message of 63 bytes, where R168 calls 60 the longest: R140 with section 10.3 is
followed, the model's choice (log 28). -/
def State.alarmRead (channel index : Byte) (s : State) : Reply :=
  match below 16 channel, below 32 index with
  | some c, some i =>
    let ch := s.channels[c]
    s.answer (u8 c ++ flag ch.enabled ++ flag ch.masked ++ flag ch.pending ++ flag ch.inService ++ flag s.tracking ++
      u8 ch.list.length ++ u8 i ++ ((ch.list.drop i.val).take 6).flatMap SourceEntry.bytes)
  | _, _ => s.refuse .range

/-! ## Steps -/

/-- ALARM_PRESENTATION -/
def execAlarmPresentation (s : State) : Host.Outcome State Fault Refusal := .next s.present

/-- ALARM ENABLE -/
def execAlarmEnable (tag : Byte) (on off : Half) (s : State) : Host.Outcome State Fault Refusal :=
  .next (s.command (.alarmEnable tag on off) (State.alarmEnable on off))

/-- ALARM MASK -/
def execAlarmMask (tag : Byte) (mask unmask : Half) (s : State) : Host.Outcome State Fault Refusal :=
  .next (s.command (.alarmMask tag mask unmask) (State.alarmMask mask unmask))

/-- ALARM TRACK -/
def execAlarmTrack (tag setting : Byte) (s : State) : Host.Outcome State Fault Refusal :=
  .next (s.command (.alarmTrack tag setting) (State.alarmTrack setting))

/-- ALARM DONE -/
def execAlarmDone (tag channel : Byte) (s : State) : Host.Outcome State Fault Refusal :=
  .next (s.command (.alarmDone tag channel) (State.alarmDone channel))

/-- ALARM READ -/
def execAlarmRead (tag channel index : Byte) (s : State) : Host.Outcome State Fault Refusal :=
  .next (s.command (.alarmRead tag channel index) (State.alarmRead channel index))

end Sys2Proof.Machine
end

