-- ==== Sys2Proof/Machine/CaptureUnit.lean ====
section
/-! DEFINITION. The Capture Unit (05, section 5.4): collections, results, CAPTURE notices and the capture commands. -/

namespace Sys2Proof.Machine

/-- The Capture Unit changed. -/
def State.mapCapture (f : Capture → Capture) (s : State) : State := { s with capture := f s.capture }

/-! ## The end of a collection (R107 first part, R108 to R110) -/

/-- The measured part of a result (R108); a frame that brought fewer than 32 samples gives zero samples for the others
(log 15). -/
def Collection.measured (c : Collection) : Measured :=
  match c.target.kind with
  | .power => .power (scalePower c.powerSum c.samplesSeen) (scalePower c.powerPeak 1) c.downlink
  | .raw => .raw ((c.firstSamples ++ List.replicate 32 Sample.zero).take 32)

/-- The result of a collection that ends (R107, R109). -/
def Capture.resultOf (u : Capture) (c : Collection) : Result where
  target := c.target
  frame := c.frame
  servedSingle := u.single == some c.target
  servedContinuous := c.forContinuous
  complete := c.live
  measured := c.measured

/-- A result placed in the buffer (R110): an older one is replaced and counted as missed. -/
def Capture.place (r : Result) (u : Capture) : Capture :=
  { u with buffer := some r, missed := if u.buffer.isSome then min 255 (u.missed + 1) else u.missed }

/-- The collection in progress ends (R107): a single request that it serves is cleared. -/
def Capture.endCollection (u : Capture) : Capture :=
  match u.collection with
  | none => u
  | some c =>
    let r := u.resultOf c
    { u with collection := none, single := if r.servedSingle then none else u.single }.place r

/-! ## The beginning of a collection (R107 second and third part) -/

/-- The continuous count at a boundary: lowered by 1 above 0 (R107, second part). -/
def Capture.lower (u : Capture) : Capture :=
  { u with continuous := u.continuous.map fun c => { c with next := c.next - 1 } }

/-- Whether the third part of R107 finds a request to decide on: a single one, or a continuous one whose count is 0. -/
def Capture.wants (u : Capture) : Bool :=
  u.single.isSome || (u.continuous.map (·.next)) == some 0

/-- Whether a boundary's event does more than lower a count: a collection in progress ends, or a request is decided on. -/
def Capture.due (u : Capture) : Bool := u.collection.isSome || u.lower.wants

/-- The part of a boundary's event that no row stands for (log 24): a count lowered where nothing ends and nothing is
decided on. -/
def Capture.boundary (u : Capture) : Capture := if u.due then u else u.lower

/-- The downlink level of a collection, from the carry set latched for its frame; none is the mark ZERO (R108). -/
def State.downlinkLevel (s : State) (t : Target) : Option Int :=
  match s.fabric.carry[t.spoke][t.pos] with
  | some c =>
    if s.fabric.feedState[c.feed] = .active then some ((s.feeds[c.feed].level.val : Int) - c.down.val) else none
  | none => none

/-- A collection begins in the frame in progress (R105, R109). -/
def State.newCollection (s : State) (t : Target) (forContinuous : Bool) : Collection where
  target := t
  frame := s.frame
  forContinuous := forContinuous
  live := s.spokes[t.spoke].state == .live
  downlink := s.downlinkLevel t
  powerSum := 0
  samplesSeen := 0
  powerPeak := 0
  firstSamples := []

/-- The continuous request after a collection of a target has begun: where it names that target, its count is set to its
interval (R107). -/
def Continuous.served (t : Target) (c : Continuous) : Continuous := if c.target = t then { c with next := c.interval } else c

/-- A collection of a target begins (R107, third part). -/
def State.beginCollection (t : Target) (s : State) : State :=
  let forContinuous := s.capture.continuous.map (·.target) == some t
  s.mapCapture fun u =>
    { u with collection := some (s.newCollection t forContinuous), continuous := u.continuous.map (·.served t) }

/-- A RAW collection does not begin while the store lock is set (R107). -/
def State.barred (s : State) (t : Target) : Bool := t.kind == .raw && s.store.locked

/-- The decision for the continuous request (R107). -/
def State.decideContinuous (s : State) : State :=
  match s.capture.continuous with
  | some c =>
    if c.next ≠ 0 then s
    else if s.barred c.target then s.mapCapture fun u => { u with continuous := none }
    else s.beginCollection c.target
  | none => s

/-- The decision of a boundary (R107, third part): the single request first; a barred RAW request is cleared, and the unit
decides again for what remains. -/
def State.decideCollection (s : State) : State :=
  match s.capture.single with
  | some t =>
    if s.barred t then (s.mapCapture fun u => { u with single := none }).decideContinuous else s.beginCollection t
  | none => s.decideContinuous

/-- A frame boundary at the Capture Unit, one event in the three parts of R107: a collection in progress ends, the
continuous count is lowered, and the unit decides whether a collection begins. -/
def State.captureEvent (s : State) : State :=
  ({ s with due := { s.due with capture := false } }.mapCapture fun u => u.endCollection.lower).decideCollection

/-- That event as a turn of the boundary in hand, where a collection in progress ends at it. -/
def State.captureEndTurn (s : State) : State :=
  if s.due.capture && s.capture.collection.isSome then s.captureEvent else s

/-- That event as a turn of the boundary in hand, where no collection is in progress. -/
def State.captureStartTurn (s : State) : State :=
  if s.due.capture && s.capture.collection.isNone then s.captureEvent else s

/-! ## CAPTURE notices (R110, R163) -/

/-- The buffered result enters the Outbound Queue: port UP, three places free, no response waiting, and the turn its own
or no ALARM notice waiting; `alarmWaits` says whether the Alarm Unit has chosen a channel. -/
def State.enqueueCapture (alarmWaits : Bool) (s : State) : State :=
  match s.capture.buffer with
  | none => s
  | some r =>
    if s.mgmtUp && s.lane.noResponseWaits && decide (3 ≤ s.lane.free) && (s.lane.turn == .capture || !alarmWaits) then
      { s with
        lane := { s.lane with outbound := s.lane.outbound ++ [.capture r s.capture.missed], turn := .alarm }
        capture := { s.capture with buffer := none, missed := 0 } }
    else s

/-! ## Capture commands (R106, R111) -/

/-- The unit's state, derived (R105): IDLE 0, COLLECTING 1, WAITING 2. -/
def Capture.stateCode (u : Capture) : Nat :=
  if u.collection.isSome then 1 else if u.single.isSome || u.continuous.isSome then 2 else 0

/-- A target as spoke, cell position and kind. -/
def Target.bytes (t : Target) : List Byte := u8 t.spoke ++ u8 t.pos ++ u8 t.kind.code

/-- The single request: a presence byte and its target, 0 when absent (log 9). -/
def singleBytes : Option Target → List Byte
  | some t => flag true ++ t.bytes
  | none => flag false ++ u24 0

/-- The continuous request: a presence byte, its target, interval and frames to next, 0 when absent (log 9). -/
def continuousBytes : Option Continuous → List Byte
  | some c => flag true ++ c.target.bytes ++ u16 c.interval ++ u16 c.next
  | none => flag false ++ u24 0 ++ u16 0 ++ u16 0

/-- The unit's state and both requests, the body of CAPTURE's answer (R106). -/
def Capture.standing (u : Capture) : List Byte := u8 u.stateCode ++ singleBytes u.single ++ continuousBytes u.continuous

/-- CAPTURE's target; none is RANGE. -/
def targetOf (spoke pos kind : Byte) : Option Target :=
  match below 32 spoke, below 4 pos, captureKindOf kind with
  | some i, some k, some c => some ⟨i, k, c⟩
  | _, _, _ => none

/-- CAPTURE's mode and interval (R106): SINGLE 0, whose interval is not checked, gives none; CONTINUOUS 1. -/
def captureModeOf (mode : Byte) (interval : Half) : Option (Option Nat) :=
  match flagOf mode with
  | none => none
  | some false => some none
  | some true => (within 1 1000 interval.toNat).map some

/-- A SINGLE finds the unit occupied (R106). -/
def Capture.singleBusy (u : Capture) (t : Target) : Bool :=
  u.single.isSome ||
    match u.continuous with
    | some c => c.target != t
    | none => false

/-- An answer DONE that gives the unit's state and both requests. -/
def State.captureReply (s : State) : Reply := ⟨.done, s.capture.standing, s⟩

/-- CAPTURE (R106). -/
def State.captureRequest (spoke pos kind mode : Byte) (interval : Half) (s : State) : Reply :=
  match targetOf spoke pos kind, captureModeOf mode interval with
  | some t, some m =>
    if s.barred t then s.refuse .locked
    else
      match m with
      | some n => (s.mapCapture fun u => { u with continuous := some ⟨t, n, 0⟩ }).captureReply
      | none =>
        if s.capture.singleBusy t then s.refuse .busy
        else (s.mapCapture fun u => { u with single := some t }).captureReply
  | _, _ => s.refuse .range

/-- CAPTURE STOP (R111): the buffered result stays. -/
def State.captureStop (s : State) : Reply :=
  { s with capture := { s.capture with single := none, continuous := none, collection := none }
           due := { s.due with capture := false } }.doneWith

/-! ## Steps -/

/-- CAPTURE_COLLECTION_END: the whole of R107's event, with the beginning of the next collection where one begins. -/
def execCaptureCollectionEnd (s : State) : Host.Outcome State Fault Refusal := .next s.captureEndTurn

/-- CAPTURE_COLLECTION_START: that event where no collection ends at it. -/
def execCaptureCollectionStart (s : State) : Host.Outcome State Fault Refusal := .next s.captureStartTurn

/-- CAPTURE -/
def execCapture (tag spoke pos kind mode : Byte) (interval : Half) (s : State) : Host.Outcome State Fault Refusal :=
  .next (s.command (.capture tag spoke pos kind mode interval) (State.captureRequest spoke pos kind mode interval))

/-- CAPTURE STOP -/
def execCaptureStop (tag : Byte) (s : State) : Host.Outcome State Fault Refusal :=
  .next (s.command (.captureStop tag) State.captureStop)

end Sys2Proof.Machine
end

