-- ==== Sys2Proof/Machine/Reset.lean ====
section
/-! DEFINITION. Power-on reset, HUB RESET, the carrier ports and the events of the Outbound Queue (R1 to R6, R21, R147, R162
to R166). -/

namespace Sys2Proof.Machine

/-! ## Resets -/

/-- The management port that the strap gives: 6 and 7 make CP5 the management port (R4). -/
def strapPort (strap : Fin 8) : PortId := ⟨min strap.val 5, by omega⟩

/-- The store at the release of power-on reset (R147): the working copy absent, no page withdrawing, the start-up read
in progress. An operation cut short leaves what its start has done. -/
def Store.powerOn (st : Store) : Store :=
  { st with
    working := Vector.replicate 16 none
    withdrawing := Vector.replicate 4 false
    engine := .reading
    left := 5 }

/-- Power-on reset (R1, R4, R147, and the reset rule of each chapter). -/
def State.powerOn (strap : Fin 8) (s : State) : State :=
  { State.reset with
    pending := s.pending
    arriving := s.arriving
    freeCount := s.freeCount
    mgmtPort := strapPort strap
    store := s.store.powerOn }

/-- The lane at HUB RESET (R155, R166): its items take their reset values; what was sent and received in the frame in
progress was sent and received. -/
def Lane.hubReset (l : Lane) : Lane :=
  { Lane.reset with received := l.received, sent := l.sent, wire := l.wire }

/-- HUB RESET takes effect (R166): every block takes its HUB RESET values; the frame number, the reference state, the
carrier ports, the strap's number, the store and the working copy are kept. -/
def State.hubReset (s : State) : State :=
  { State.reset with
    pending := s.pending
    arriving := s.arriving
    freeCount := s.freeCount
    frame := s.frame
    reference := s.reference
    markerSkipped := s.markerSkipped
    mgmtPort := s.mgmtPort
    ports := s.ports
    store := s.store
    lane := s.lane.hubReset }

/-! ## Carrier ports (R2 to R6, R164) -/

/-- A carrier port gains lock (R4): no event is raised. The Timebase waits for the management port's next marker (R3). -/
def State.portLock (p : PortId) (s : State) : State := { s with ports := s.ports.set p true }

/-- SILENT_PORT for each ACTIVE feed of a port, in ascending feed order (R6). -/
def State.raiseSilent (p : PortId) (s : State) : State :=
  allFeeds.foldl (fun t f =>
    if portOf f = p ∧ s.feeds[f].state = .active then t.raise chFeedTrouble (some f.val) .silentPort else t) s

/-- The lane at the management port's loss of lock (R164). -/
def Lane.portDown (l : Lane) : Lane :=
  { l with assembly := none, outbound := [], held := none, holder := none, headSent := 0 }

/-- The management port loses lock (R2, R135, R164, R166): the reference is FREE, unsent ALARM notices are handed back, and
an armed HUB RESET takes effect. -/
def State.mgmtLoss (s : State) : State :=
  let t := s.handBackAll
  let t := { t with
    reference := .free
    markerSkipped := false
    lane := t.lane.portDown
    due := { t.due with abandon := false } }
  if s.lane.resetArmed then t.hubReset else t

/-- A carrier port loses lock (R4, R6). -/
def State.portLoss (p : PortId) (s : State) : State :=
  if s.ports[p] then
    let t := { s.raiseSilent p with ports := s.ports.set p false }
    if p = s.mgmtPort then t.mgmtLoss else t
  else s

/-! ## The Outbound Queue (R162, R166) -/

/-- The oldest message leaves (R162); with the response of an executed HUB RESET the reset takes effect (R166). -/
def State.leave (s : State) : State :=
  let t := s.mapLane (·.leave)
  if s.lane.resetAtHead then t.hubReset else t

/-- MESSAGE_LEAVES: the oldest message's last byte is sent, where the frame's bytes reach it. -/
def State.messageLeaves (s : State) : State := if s.mgmtUp && s.lane.canLeave then s.leave else s

/-- HUB_RESET_EFFECT: the response of the executed HUB RESET leaves (log 18). -/
def State.resetLeaves (s : State) : State := if s.mgmtUp && s.lane.canLeave && s.lane.resetAtHead then s.leave else s

/-! ## HUB STATUS and HUB RESET (R165, R166) -/

/-- HUB STATUS (R165). The part code as two bytes, most significant first, is the model's choice (log 27). -/
def State.hubStatus (s : State) : Reply :=
  s.answer (u16 Config.partCode ++ u8 Config.revision ++ u16 s.frame.toNat ++ u8 s.reference.code ++ u8 s.mgmtPort ++
    flag s.store.locked ++ u8 s.store.engine.code ++ u8 s.engine.state.code ++ u8 s.engine.line ++
    bindingBytes s.engine.bankA ++ bindingBytes s.engine.bankB ++
    flag s.lane.overrun ++ present8 (s.lane.firstTag.map (·.toNat)) ++ u8 s.lane.discards ++
    u8 s.lane.free ++ flag s.lane.assembly.isSome ++ flag (s.store.engine != .reading))

/-- HUB RESET executes (R166): the Command Unit takes no further command. -/
def State.armReset (s : State) : Reply := (s.mapLane fun l => { l with resetArmed := true }).doneWith

/-- HUB RESET as a step: with the management port DOWN its response is dropped and the reset takes effect at once. -/
def State.hubResetCommand (tag : Byte) (s : State) : State :=
  let t := s.command (.hubReset tag) State.armReset
  if t.lane.resetArmed && !t.mgmtUp then t.hubReset else t

/-! ## Steps -/

/-- POWER_ON_RESET -/
def execPowerOnReset (strap : Fin 8) (s : State) : Host.Outcome State Fault Refusal := .next (s.powerOn strap)

/-- CARRIER_PORT_LOCK -/
def execCarrierPortLock (p : PortId) (s : State) : Host.Outcome State Fault Refusal := .next (s.portLock p)

/-- CARRIER_PORT_LOSS -/
def execCarrierPortLoss (p : PortId) (s : State) : Host.Outcome State Fault Refusal := .next (s.portLoss p)

/-- CAPTURE_NOTICE_ENQUEUE -/
def execCaptureNoticeEnqueue (s : State) : Host.Outcome State Fault Refusal := .next (s.enqueueCapture s.chosen.isSome)

/-- COMMAND_RESPONSE_TAKEN -/
def execCommandResponseTaken (s : State) : Host.Outcome State Fault Refusal := .next s.responseTaken

/-- RESYNC_RESPONSE_TAKEN -/
def execResyncResponseTaken (s : State) : Host.Outcome State Fault Refusal := .next s.resyncTaken

/-- MESSAGE_LEAVES -/
def execMessageLeaves (s : State) : Host.Outcome State Fault Refusal := .next s.messageLeaves

/-- HUB_RESET_EFFECT -/
def execHubResetEffect (s : State) : Host.Outcome State Fault Refusal := .next s.resetLeaves

/-- INBOUND_BYTE -/
def execInboundByte (b : Byte) (s : State) : Host.Outcome State Fault Refusal := .next (s.inboundByte b)

/-- COMMAND_COMPLETE: the bytes of a message arrive, the last of them completing it (log 18). -/
def execCommandComplete (bytes : List Byte) (s : State) : Host.Outcome State Fault Refusal :=
  .next (bytes.foldl (fun t b => t.inboundByte b) s)

/-- ASSEMBLY_ABANDON -/
def execAssemblyAbandon (s : State) : Host.Outcome State Fault Refusal := .next s.abandonTurn

/-- COMMAND_UNKNOWN: the Command Unit answers UNKNOWN and touches no other block (R157). -/
def execCommandUnknown (tag : Byte) (code : BitVec 6) (s : State) : Host.Outcome State Fault Refusal :=
  .next (s.command (.commandUnknown tag code) fun t => t.refuse .unknown)

/-- COMMAND_MALFORMED: the Command Unit answers MALFORMED and touches no other block (R157). -/
def execCommandMalformed (tag : Byte) (code : BitVec 6) (s : State) : Host.Outcome State Fault Refusal :=
  .next (s.command (.commandMalformed tag code) fun t => t.refuse .malformed)

/-- RESYNC -/
def execResync (tag : Byte) (s : State) : Host.Outcome State Fault Refusal := .next (s.resyncArrives tag)

/-- HUB STATUS -/
def execHubStatus (tag : Byte) (s : State) : Host.Outcome State Fault Refusal :=
  .next (s.command (.hubStatus tag) State.hubStatus)

/-- HUB RESET -/
def execHubReset (tag : Byte) (s : State) : Host.Outcome State Fault Refusal := .next (s.hubResetCommand tag)

end Sys2Proof.Machine
end

