-- ==== Sys2Proof/Machine/Supervisor.lean ====
section
/-! DEFINITION. The Spoke Link Interface and the Spoke Supervisor (02): links, training, node reports, health polling and
what each does at a frame boundary. The spoke commands are in SpokeCommands. -/

namespace Sys2Proof.Machine

/-! ## DARK (R24, R33, R124) -/

/-- Entry to DARK with the hold kept: the second column of R24, the qualifier records of R124, the request being sent
abandoned and the list emptied (R22); a departure from LIVE takes its effects. -/
def State.enterDark (i : SpokeId) (s : State) : State :=
  let t := ((s.darkenQuals i).moveSpoke i fun r => .dark r.hold).mapLink i fun l => { l with requests := [], sending := none }
  { t with due := { t.due with
      train := t.due.train.set i false, poll := t.due.poll.set i false, waiting := t.due.waiting.set i 0 } }

/-- A spoke link in DARK becomes locked (R30): the spoke enters TRAINING. -/
def State.linkLock (i : SpokeId) (s : State) : State :=
  if s.spokes[i].state = .dark ∧ s.links[i].locked = false then
    (s.mapLink i fun l => { l with locked := true }).enterTraining i
  else s

/-- A spoke link loses lock outside DARK (R33). -/
def State.linkLoss (i : SpokeId) (s : State) : State :=
  if s.spokes[i].state = .dark then s else
    ((s.enterDark i).mapLink i fun _ => .dropped).raise chLinkLost (some i.val) .none

/-! ## Training (R30 to R32) -/

/-- The training limit (R32): the spoke goes to ISOLATED, with NO_HELLO unless an isolate hold stands. -/
def State.trainingLimit (i : SpokeId) (s : State) : State :=
  ((s.endTraining i).isolate i .noHello).mapSpoke i fun r => { r with state := .isolated }

/-- The raise of training frames elapsed (R30): at 200 the limit, at another multiple of 10 a further HELLO REQUEST. -/
def State.trainRaise (i : SpokeId) (s : State) : State :=
  let n := s.spokes[i].elapsed + 1
  if s.spokes[i].state ≠ .training then s
  else if 200 ≤ n then s.trainingLimit i
  else
    let t := s.mapSpoke i fun r => { r with elapsed := n }
    if n % 10 = 0 then t.mapLink i (·.request .hello) else t

/-- That raise as a turn of the boundary in hand. -/
def State.trainTurn (i : SpokeId) (s : State) : State :=
  if s.due.train[i] then
    { s with due := { s.due with train := s.due.train.set i false } }.trainRaise i
  else s

/-! ## Node reports arriving (R34, R35, R175) -/

/-- A number limited to a range. -/
def limit (lo hi : Int) (z : Int) : Int := max lo (min hi z)

/-- A supply byte: OK 0, LOW 1 (R174). -/
def supplyOf (b : Byte) : Option Supply :=
  if b = 0#8 then some .ok else if b = 1#8 then some .low else none

/-- A fault code byte: 1 to 5 (R174). -/
def faultCodeOf (b : Byte) : Option FaultCode :=
  if b = 1#8 then some .overheat else if b = 2#8 then some .vswr else if b = 3#8 then some .supply
  else if b = 4#8 then some .amplifier else if b = 5#8 then some .internal else none

/-- The contents of a report of a kind, from its body; none where R175 marks it damaged. Health values are limited to
their ranges (R34). -/
def reportBody (kind : Byte) (body : List Byte) : Option Report :=
  match kind.toNat, body with
  | 0x01, [cls, _, _, _, _] => (below 8 cls).map .hello
  | 0x02, [temp, o1, o0, sup] =>
    (supplyOf sup).map fun u =>
      .health (limit (-40) 125 temp.toInt) (limit (-300) 50 (o1 ++ o0 : BitVec 16).toInt) u
  | 0x03, [code] => (faultCodeOf code).map .fault
  | 0x04, [code] => (faultCodeOf code).map .clear
  | _, _ => none

/-- The kind that a report's kind byte names (R174); UNREADABLE where it names none (log 12). -/
def reportKindOf (kind : Byte) : ReportKind :=
  match kind.toNat with
  | 0x01 => .hello
  | 0x02 => .health
  | 0x03 => .fault
  | 0x04 => .clear
  | _ => .unreadable

/-- A completed report as it is read (R175): lead, length, kind, body, check. -/
def readReport (bytes : List Byte) : Report :=
  match bytes with
  | _ :: _ :: kind :: rest =>
    if checkPasses bytes then (reportBody kind (rest.take (rest.length - 2))).getD (.damaged (reportKindOf kind))
    else .damaged (reportKindOf kind)
  | _ => .damaged .unreadable

/-- A report completes (R34, R35): queued where the latch is clear and the queue holds fewer than two; otherwise
discarded, and the first discard sets the latch and raises REPORT_OVERRUN. -/
def State.completeReport (i : SpokeId) (rep : Report) (s : State) : State :=
  let s := s.mapSpoke i fun r => { r with assembly := none }
  let r := s.spokes[i]
  if r.overrun then s
  else if r.queue.length < 2 then s.mapSpoke i fun r => { r with queue := r.queue ++ [rep] }
  else (s.mapSpoke i fun r => { r with overrun := true, firstDiscarded := some rep.discardedKind }).raise
    chReportOverrun (some i.val) (.overrun rep.discardedKind)

/-- One byte on a spoke's inbound service lane (R34, R175). A lead byte begins an assembly; the byte after it is the
length; a length outside 5 to 12 completes the report there, damaged. Nothing is assembled on an unlocked link. -/
def State.reportByte (i : SpokeId) (b : Byte) (s : State) : State :=
  if s.links[i].locked = false then s else
  match s.spokes[i].assembly with
  | none => if b = reportLead then s.mapSpoke i fun r => { r with assembly := some [b] } else s
  | some [lead] =>
    if 5 ≤ b.toNat ∧ b.toNat ≤ 12 then s.mapSpoke i fun r => { r with assembly := some [lead, b] }
    else s.completeReport i (.damaged .unreadable)
  | some bytes =>
    let all := bytes ++ [b]
    if all.length = (bytes.getD 1 0#8).toNat then s.completeReport i (readReport all)
    else s.mapSpoke i fun r => { r with assembly := some all }

/-! ## Reports taken (R31, R36 to R39) -/

/-- A HELLO taken in TRAINING (R31). -/
def State.helloInTraining (i : SpokeId) (cls : NodeClass) (s : State) : State :=
  let s := s.endTraining i
  match s.store.nodeClass cls with
  | none => (s.isolate i .classUnknown).mapSpoke i fun r => { r with state := .isolated }
  | some _ =>
    let s := s.mapSpoke i fun r => { r with knownClass := some cls }
    match s.spokes[i].hold with
    | .isolate _ => s.mapSpoke i fun r => { r with state := .isolated }
    | .quiet => s.mapSpoke i fun r => { r with state := .quiet }
    | .none => (s.raise chLinkUp (some i.val) .none).enterLive i

/-- A HELLO taken in LIVE, QUIET or ISOLATED (R37). -/
def State.helloTaken (i : SpokeId) (cls : NodeClass) (s : State) : State :=
  match s.store.nodeClass cls with
  | none => (s.mapSpoke i fun r => { r with knownClass := none }).isolate i .classUnknown
  | some _ =>
    if s.spokes[i].knownClass = some cls then
      if s.spokes[i].state = .live then
        (s.settleStart i s.restoreSettle).mapSpoke i fun r => { r with faults := 0 }
      else s
    else (s.mapSpoke i fun r => { r with knownClass := some cls }).classCheck i

/-- The bit of a fault code in the set of active codes (section 10.3). -/
def FaultCode.bit : FaultCode → BitVec 5
  | .overheat => 1#5
  | .vswr => 2#5
  | .supply => 4#5
  | .amplifier => 8#5
  | .internal => 16#5

/-- A report that has been taken acts on its spoke (R36). -/
def State.actOnReport (i : SpokeId) (rep : Report) (s : State) : State :=
  match rep with
  | .damaged _ => s.frameErrors i
  | .hello cls =>
    match s.spokes[i].state with
    | .training => s.helloInTraining i cls
    | .live | .quiet | .isolated => s.helloTaken i cls
    | .dark => s
  | .health t o u =>
    s.mapSpoke i fun r =>
      { r with temperature := some t, optical := some o, supply := some u, missed := 0, outstanding := false }
  | .fault c => s.mapSpoke i fun r => { r with faults := r.faults ||| c.bit }
  | .clear c => s.mapSpoke i fun r => { r with faults := r.faults &&& ~~~c.bit }

/-- The order of a search: from the spoke after the taker's position, ascending and wrapping (R36). -/
def searchOrder (p : SpokeId) : List SpokeId := allSpokes.map fun k => ⟨(p.val + 1 + k.val) % 32, by omega⟩

/-- The first spoke in search order whose queue is not empty. -/
def State.nextQueued (s : State) : Option SpokeId :=
  (searchOrder s.takerPos).find? fun i => !s.spokes[i].queue.isEmpty

/-- A search of the report taker with its outcome (R36), one of the boundary's four: the oldest report of the spoke found
is taken and acts; a search that finds none stops the taker for this boundary. -/
def State.takeFrom (found : Option SpokeId) (s : State) : State :=
  if s.due.reports = 0 then s else
  match found with
  | none => { s with due := { s.due with reports := 0 } }
  | some i =>
    let d := { s.due with reports := s.due.reports - 1, waiting := update s.due.waiting i (· - 1) }
    let t := { s with due := d, takerPos := i }
    match s.spokes[i].queue with
    | [] => t
    | rep :: rest => (t.mapSpoke i fun r => { r with queue := rest }).actOnReport i rep

/-- One search of the report taker at the boundary in hand: it finds every report queued before it (R36). -/
def State.reportTurn (s : State) : State := s.takeFrom s.nextQueued

/-- The first spoke in search order with a report that stood in its queue as the boundary opened. -/
def State.nextWaiting (s : State) : Option SpokeId :=
  (searchOrder s.takerPos).find? fun i => s.due.waiting[i] != 0 && !s.spokes[i].queue.isEmpty

/-- The takings of the boundary in hand that no row has brought: of the reports that stood in the queues as it opened,
and of no report that completed in the frame after it, which is the next boundary's (R36, log 2). -/
def State.lateReports (s : State) : State :=
  let t := Nat.repeat (fun t : State => t.takeFrom t.nextWaiting) 4 s
  { t with due := { t.due with reports := 0 } }

/-! ## Settle and health polling (R28, R40) -/

/-- The Supervisor's report to the Cutover Engine that a settle count reached 0 by countdown (R28). Whether the count
stays 0 is settled only when no settle start can still be taken at this boundary, so the turn waits for the engine's
step and for the report taker, which stops where its search finds every queue empty: a HELLO queued later is the next
boundary's (R36, R92, log 22). -/
def State.settleTurn (i : SpokeId) (s : State) : State :=
  if s.due.settle[i] ∧ s.due.step = false ∧ (s.due.reports = 0 ∨ s.nextQueued = none) then
    let t := { s with due := { s.due with settle := s.due.settle.set i false, reports := 0 } }
    if s.spokes[i].state = .live ∧ s.spokes[i].settle = 0 then t.tellEngine i else t
  else s

/-- A poll falls due (R40): a miss where one is outstanding, up to 3; a HEALTH POLL is made; the count is reloaded. -/
def State.pollTurn (i : SpokeId) (s : State) : State :=
  if s.due.poll[i] then
    ({ s with due := { s.due with poll := s.due.poll.set i false } }.mapSpoke i fun r =>
      { r with missed := if r.outstanding then min 3 (r.missed + 1) else r.missed
               outstanding := true
               nextPoll := s.pollPeriod }).mapLink i (·.request .healthPoll)
  else s

/-- A spoke that is polled: LIVE with settle count 0, QUIET or ISOLATED (R40). -/
def SpokeRec.polled (r : SpokeRec) : Bool :=
  match r.state with
  | .live => r.settle == 0
  | .quiet | .isolated => true
  | .dark | .training => false

/-- The record's poll falls due at this boundary: frames to next poll would reach 0. -/
def SpokeRec.pollDue (r : SpokeRec) : Bool := r.polled && decide (r.nextPoll ≤ 1)

/-- The raise of training frames elapsed reaches a multiple of 10, 200 among them, at this boundary. -/
def SpokeRec.trainDue (r : SpokeRec) : Bool := r.state == .training && (r.elapsed + 1) % 10 == 0

/-- The settle count reaches 0 by this boundary's countdown. -/
def SpokeRec.settleDue (r : SpokeRec) : Bool := r.state == .live && r.settle == 1

/-- What a boundary does to a record of itself, from the record at the close of the frame: countdown (R28), polling that
does not fall due (R40), and a raise of training frames that reaches no multiple of 10 (R30). Section 2.10 lowers the
count from 100 to 99 two boundaries after a poll, where R40 lowers it at each boundary; R40 is followed, the model's
choice (log 29). -/
def SpokeRec.boundary (r : SpokeRec) : SpokeRec :=
  match r.state with
  | .dark => r
  | .training => if r.trainDue then r else { r with elapsed := r.elapsed + 1 }
  | .live =>
    if r.settle = 0 then (if r.pollDue then r else { r with nextPoll := r.nextPoll - 1 })
    else { r with settle := r.settle - 1, nextPoll := 1, outstanding := false }
  | .quiet | .isolated => if r.pollDue then r else { r with nextPoll := r.nextPoll - 1 }

end Sys2Proof.Machine
end

