-- ==== Sys2Proof/Machine/SpokeCommands.lean ====
section
/-! DEFINITION. The spoke commands and POLL SET (02, sections 2.7 and 2.9). -/

namespace Sys2Proof.Machine

/-- SPOKE ISOLATE (R43): nothing is raised. -/
def State.spokeIsolate (spoke : Byte) (s : State) : Reply :=
  match below 32 spoke with
  | none => s.refuse .range
  | some i =>
    if s.spokes[i].hold.isolates then s.doneWith
    else (s.moveSpoke i fun r => { r with hold := .isolate .admin, state := stateWhenIsolated .admin r.state }).doneWith

/-- SPOKE RESTORE (R44). -/
def State.spokeRestore (spoke : Byte) (s : State) : Reply :=
  match below 32 spoke with
  | none => s.refuse .range
  | some i =>
    let r := s.spokes[i]
    if !r.hold.isolates then s.refuse .wrongState
    else
      let t := s.mapSpoke i fun r => { r with hold := .none }
      if r.state = .isolated then
        if r.knownClass.isSome then (t.enterLive i).doneWith else (t.enterTraining i).doneWith
      else t.doneWith

/-- SPOKE QUIET (R45). -/
def State.spokeQuiet (spoke : Byte) (s : State) : Reply :=
  match below 32 spoke with
  | none => s.refuse .range
  | some i =>
    let r := s.spokes[i]
    if r.hold.isolates then s.refuse .wrongState
    else if r.state = .live then (s.moveSpoke i fun r => { r with hold := .quiet, state := .quiet }).doneWith
    else (s.mapSpoke i fun r => { r with hold := .quiet }).doneWith

/-- SPOKE WAKE (R46). -/
def State.spokeWake (spoke : Byte) (s : State) : Reply :=
  match below 32 spoke with
  | none => s.refuse .range
  | some i =>
    let r := s.spokes[i]
    if r.hold ≠ .quiet then s.refuse .wrongState
    else if r.state = .quiet then (s.enterLive i).doneWith
    else if r.state = .dark ∨ r.state = .training then (s.mapSpoke i fun r => { r with hold := .none }).doneWith
    else s.refuse .wrongState

/-- SPOKE RETRAIN (R47): DARK with the hold kept, and the link dropped until its receiver regains alignment. -/
def State.spokeRetrain (spoke : Byte) (s : State) : Reply :=
  match below 32 spoke with
  | none => s.refuse .range
  | some i => ((s.enterDark i).mapLink i fun _ => .dropped).doneWith

/-- SPOKE REARM (R48). -/
def State.spokeRearm (spoke : Byte) (s : State) : Reply :=
  match below 32 spoke with
  | none => s.refuse .range
  | some i =>
    if s.spokes[i].overrun then (s.mapSpoke i fun r => { r with overrun := false, firstDiscarded := none }).doneWith
    else s.refuse .wrongState

/-- A queued report as SPOKE READ gives it: its kind and damaged flag (R49). -/
def Report.bytes (r : Report) : List Byte := u8 r.kind.code ++ flag r.isDamaged

/-- SPOKE READ's items (R49), after the record's own encodings of section 10.3 (log 9, log 20). -/
def State.spokeItems (s : State) (i : SpokeId) : List Byte :=
  let r := s.spokes[i]
  u8 i ++ u8 (if s.links[i].locked then 0 else 1) ++ u8 r.state.code ++ r.hold.bytes ++
    opt8 (r.knownClass.map (·.val)) ++ u8 r.elapsed ++ u8 r.settle ++
    u16 r.nextPoll ++ flag r.outstanding ++ u8 r.missed ++ u8 r.faults.toNat ++
    presentI8 r.temperature ++ presentI16 r.optical ++ opt8 (r.supply.map Supply.code) ++
    u8 r.queue.length ++ r.queue.flatMap Report.bytes ++
    flag r.assembly.isSome ++ flag r.overrun ++ opt8 (r.firstDiscarded.map ReportKind.code) ++
    flag (s.engine.followsB i) ++ u8 (s.engine.sweepPos i) ++ u8 s.restoreSettle ++ u16 s.pollPeriod

/-- SPOKE READ (R49). -/
def State.spokeRead (spoke : Byte) (s : State) : Reply :=
  match below 32 spoke with
  | none => s.refuse .range
  | some i => s.answer (s.spokeItems i)

/-- POLL SET (R41): the period, and every longer count lowered to it. -/
def State.pollSet (period : Half) (s : State) : Reply :=
  match within 10 1000 period.toNat with
  | none => s.refuse .range
  | some p =>
    { s with pollPeriod := p
             spokes := mapTable (fun r : SpokeRec => { r with nextPoll := min p r.nextPoll }) s.spokes }.doneWith

/-- SPOKE ISOLATE -/
def execSpokeIsolate (tag spoke : Byte) (s : State) : Host.Outcome State Fault Refusal :=
  .next (s.command (.spokeIsolate tag spoke) (State.spokeIsolate spoke))

/-- SPOKE RESTORE -/
def execSpokeRestore (tag spoke : Byte) (s : State) : Host.Outcome State Fault Refusal :=
  .next (s.command (.spokeRestore tag spoke) (State.spokeRestore spoke))

/-- SPOKE QUIET -/
def execSpokeQuiet (tag spoke : Byte) (s : State) : Host.Outcome State Fault Refusal :=
  .next (s.command (.spokeQuiet tag spoke) (State.spokeQuiet spoke))

/-- SPOKE WAKE -/
def execSpokeWake (tag spoke : Byte) (s : State) : Host.Outcome State Fault Refusal :=
  .next (s.command (.spokeWake tag spoke) (State.spokeWake spoke))

/-- SPOKE RETRAIN -/
def execSpokeRetrain (tag spoke : Byte) (s : State) : Host.Outcome State Fault Refusal :=
  .next (s.command (.spokeRetrain tag spoke) (State.spokeRetrain spoke))

/-- SPOKE REARM -/
def execSpokeRearm (tag spoke : Byte) (s : State) : Host.Outcome State Fault Refusal :=
  .next (s.command (.spokeRearm tag spoke) (State.spokeRearm spoke))

/-- SPOKE READ -/
def execSpokeRead (tag spoke : Byte) (s : State) : Host.Outcome State Fault Refusal :=
  .next (s.command (.spokeRead tag spoke) (State.spokeRead spoke))

/-- POLL SET -/
def execPollSet (tag : Byte) (period : Half) (s : State) : Host.Outcome State Fault Refusal :=
  .next (s.command (.pollSet tag period) (State.pollSet period))

end Sys2Proof.Machine
end

