-- ==== Sys2Proof/Machine/FeedCommands.lean ====
section
/-! DEFINITION. The feed commands (01, section 1.3): FEED SET and FEED READ. -/

namespace Sys2Proof.Machine

/-- Whether a plan's entry holds a cell naming a feed. -/
def Entry.names (e : Entry) (f : FeedId) : Bool := e.cells.toList.any fun c => c.map (·.feed) == some f

/-- The number of spokes for which a plan holds a cell naming a feed (R9). -/
def Plan.fanout (p : Plan) (f : FeedId) : Nat := (p.toList.filter (·.names f)).length

/-- Whether a plan slot bound to either bank names a feed (R8). -/
def State.feedBound (s : State) (f : FeedId) : Bool :=
  (List.finRange 8).any fun k => s.engine.holds k && decide (0 < s.slots[k].plan.fanout f)

/-- Whether a bound feed's record may become another (R8): the same record, or one that differs in the state alone,
between ACTIVE and MUTED. -/
def FeedRec.mutesOnly (old new : FeedRec) : Bool :=
  new == old || (new == { old with state := new.state } && old.state != .unused && new.state != .unused)

/-- Whether the working copy permits a feed's record (R7, R8): the operator's record is present and not withdrawing, and
permits the feed's port and band class. -/
def State.permits (s : State) (f : FeedId) (r : FeedRec) : Bool :=
  match s.store.operator r.operator with
  | some o => o.ports.getLsbD (portOf f) && o.bands.getLsbD r.band
  | none => false

/-- FEED SET's operands as a feed and a record; none is RANGE (R8). -/
def feedSetOf (feed state operator band level : Byte) : Option (FeedId × FeedRec) :=
  match below 24 feed, feedStateOf state, below 8 operator, below 16 band, below 81 level with
  | some f, some st, some o, some b, some l => some (f, ⟨st, o, b, l⟩)
  | _, _, _, _, _ => none

/-- FEED SET (R8). -/
def State.feedSet (feed state operator band level : Byte) (s : State) : Reply :=
  match feedSetOf feed state operator band level with
  | none => s.refuse .range
  | some (f, r) =>
    if s.feedBound f && !s.feeds[f].mutesOnly r then s.refuse .inUse
    else if r.state != .unused && !s.permits f r then s.refuse .entitlement
    else { s with feeds := s.feeds.set f r }.doneWith

/-- The fan-out of a feed under a bank, or the mark UNBOUND (R9). -/
def State.bankFanout (s : State) (bank : Option SlotId) (f : FeedId) : Option Nat :=
  bank.map fun k => s.slots[k].plan.fanout f

/-- FEED READ (R9); port lock UP is 0 and DOWN 1 (log 20). -/
def State.feedRead (feed : Byte) (s : State) : Reply :=
  match below 24 feed with
  | none => s.refuse .range
  | some f =>
    let r := s.feeds[f]
    s.answer (u8 f ++ u8 r.state.code ++ u8 r.operator ++ u8 r.band ++ u8 r.level ++
      u8 (if s.ports[portOf f] then 0 else 1) ++
      opt8 (s.bankFanout s.engine.bankA f) ++ opt8 (s.bankFanout s.engine.bankB f))

/-- FEED SET -/
def execFeedSet (tag feed state operator band level : Byte) (s : State) : Host.Outcome State Fault Refusal :=
  .next (s.command (.feedSet tag feed state operator band level) (State.feedSet feed state operator band level))

/-- FEED READ -/
def execFeedRead (tag feed : Byte) (s : State) : Host.Outcome State Fault Refusal :=
  .next (s.command (.feedRead tag feed) (State.feedRead feed))

end Sys2Proof.Machine
end

