-- ==== Sys2Proof/Machine/Plans.lean ====
section
/-! DEFINITION. The Plan Store (03): loading and keeping plans, admission, and trim streaming. -/

namespace Sys2Proof.Machine

/-! ## Admission (R62 to R67) -/

/-- A spoke's cell count: its cells that are not EMPTY (R52). -/
def Entry.count (e : Entry) : Nat := (e.cells.toList.filter (·.isSome)).length

/-- The first of a spoke's cells, in ascending position, that fails a check (R63). -/
def firstCell (i : SpokeId) (e : Entry) (reason : FailReason) (fails : CellPos → Cell → Bool) : Option Failure :=
  allPositions.findSome? fun k =>
    match e.cells[k] with
    | some c => if fails k c then some ⟨i, some k, reason⟩ else none
    | none => none

/-- FEED_TWICE at a position: a lower position names the same feed (R64). -/
def Entry.namedBelow (e : Entry) (k : CellPos) (f : FeedId) : Bool :=
  allPositions.any fun j => decide (j < k) && e.cells[j].map (·.feed) == some f

/-- LEVEL: nominal level less downlink attenuation above the class's maximum (R64, R72). -/
def State.levelExceeds (s : State) (cls : ClassRec) (f : FeedId) (down : Fin 64) : Bool :=
  decide (cls.level + down.val < s.feeds[f].level.val)

/-- The failure of a spoke as a whole, where it fails. -/
def spokeFailure (i : SpokeId) (reason : FailReason) (fails : Bool) : Option Failure :=
  if fails then some ⟨i, none, reason⟩ else none

/-- The checks that read a spoke's expected class record: CAPACITY and BAND (R64, R65). -/
def State.classChecks (s : State) (i : SpokeId) (e : Entry) (cls : ClassRec) : Option Failure :=
  (spokeFailure i .capacity (decide (cls.capacity < e.count))).or
    (firstCell i e .band fun _ c => !cls.bands.getLsbD s.feeds[c.feed].band)

/-- Checks 1 to 8 at one spoke (R63 to R65); `full` is false for the entitlement part, which leaves out FEED_TWICE and
NO_CLASS (R67). -/
def State.spokeChecks (s : State) (full : Bool) (i : SpokeId) (e : Entry) : Option Failure :=
  let cls := e.expect.bind s.store.nodeClass
  (firstCell i e .feedUnused fun _ c => s.feeds[c.feed].state == .unused).or <|
  (if full then firstCell i e .feedTwice fun k c => e.namedBelow k c.feed else none).or <|
  (spokeFailure i .noClass (full && decide (0 < e.count) && e.expect.isNone)).or <|
  (spokeFailure i .classAbsent (e.expect.isSome && cls.isNone)).or <|
  (cls.bind (s.classChecks i e)).or <|
  (firstCell i e .operator fun _ c => !s.permits c.feed s.feeds[c.feed]).or <|
  cls.bind fun r => firstCell i e .level fun _ c => s.levelExceeds r c.feed c.down

/-- The spokes for which a plan names a feed, ascending. -/
def Plan.carriers (p : Plan) (f : FeedId) : List SpokeId := allSpokes.filter fun i => p[i].names f

/-- The position at which an entry names a feed. -/
def Entry.posOf (e : Entry) (f : FeedId) : Option CellPos :=
  allPositions.find? fun k => e.cells[k].map (·.feed) == some f

/-- FANOUT over the plan's feeds in ascending order (R66): the spoke whose count first exceeds the maximum. -/
def State.fanoutCheck (s : State) (p : Plan) : Option Failure :=
  allFeeds.findSome? fun f =>
    match s.store.operator s.feeds[f].operator with
    | some o => ((p.carriers f)[o.fanout]?).map fun i => ⟨i, p[i].posOf f, .fanout⟩
    | none => none

/-- Admission of a plan, or its entitlement part: the first failure, if there is one (R63, R67). -/
def State.admission (s : State) (full : Bool) (p : Plan) : Option Failure :=
  (allSpokes.findSome? fun i => s.spokeChecks full i p[i]).or (s.fanoutCheck p)

/-! ## Slots and the pointer -/

/-- A slot replaced. -/
def State.setSlot (k : SlotId) (v : PlanSlot) (s : State) : State := { s with slots := s.slots.set k v }

/-- The pointer and the staging record cleared if they name a slot (R56, R57, R60, R68). -/
def State.clearPointerAt (k : SlotId) (s : State) : State :=
  if s.pointer.map (·.slot) = some k then { s with pointer := none, staging := ⟨none, none⟩ } else s

/-- An answer DONE that gives the slot's state after the command (R55). -/
def State.slotReply (k : SlotId) (s : State) : Reply := ⟨.done, u8 s.slots[k].state.code, s⟩

/-! ## Loading and keeping plans (R55 to R62) -/

/-- PLAN OPEN (R56). -/
def State.planOpen (slot : Byte) (s : State) : Reply :=
  match below 8 slot with
  | none => s.refuse .range
  | some k =>
    if s.engine.holds k then s.refuse .inUse
    else ((s.setSlot k ⟨.loading, Plan.empty, none⟩).clearPointerAt k).slotReply k

/-- PLAN EDIT (R57). -/
def State.planEdit (slot : Byte) (s : State) : Reply :=
  match below 8 slot with
  | none => s.refuse .range
  | some k =>
    match s.slots[k].state with
    | .empty | .loading => s.refuse .wrongState
    | .ready | .rejected =>
      if s.engine.holds k then s.refuse .inUse
      else ((s.setSlot k ⟨.loading, s.slots[k].plan, none⟩).clearPointerAt k).slotReply k

/-- One PLAN CELL entry written into a plan (R58). -/
def Plan.writeCell (p : Plan) (w : SpokeId × CellPos × Option Cell) : Plan :=
  update p w.1 fun e => { e with cells := e.cells.set w.2.1 w.2.2 }

/-- PLAN CELL (R58): every entry is checked before any is written, then they are written in message order. -/
def State.planCell (slot : Byte) (entries : List CellEntry) (s : State) : Reply :=
  match below 8 slot, readAll cellOf entries with
  | some k, some ws =>
    if s.slots[k].state = .loading then
      (s.setSlot k { s.slots[k] with plan := ws.foldl Plan.writeCell s.slots[k].plan }).slotReply k
    else s.refuse .wrongState
  | _, _ => s.refuse .range

/-- One PLAN EXPECT pair written into a plan (R59). -/
def Plan.writeExpect (p : Plan) (w : SpokeId × Option NodeClass) : Plan :=
  update p w.1 fun e => { e with expect := w.2 }

/-- PLAN EXPECT (R59). -/
def State.planExpect (slot : Byte) (pairs : List ExpectPair) (s : State) : Reply :=
  match below 8 slot, readAll pairOf pairs with
  | some k, some ws =>
    if s.slots[k].state = .loading then
      (s.setSlot k { s.slots[k] with plan := ws.foldl Plan.writeExpect s.slots[k].plan }).slotReply k
    else s.refuse .wrongState
  | _, _ => s.refuse .range

/-- PLAN CLOSE (R62): admission runs at once; the response gives the new state and, for REJECTED, the failure. -/
def State.planClose (slot : Byte) (s : State) : Reply :=
  match below 8 slot with
  | none => s.refuse .range
  | some k =>
    if s.slots[k].state = .loading then
      match s.admission true s.slots[k].plan with
      | none => (s.setSlot k ⟨.ready, s.slots[k].plan, none⟩).slotReply k
      | some f =>
        ⟨.done, u8 SlotState.rejected.code ++ f.bytes, s.setSlot k ⟨.rejected, s.slots[k].plan, some f⟩⟩
    else s.refuse .wrongState

/-- PLAN DROP (R60). -/
def State.planDrop (slot : Byte) (s : State) : Reply :=
  match below 8 slot with
  | none => s.refuse .range
  | some k =>
    if s.engine.holds k then s.refuse .inUse
    else ((s.setSlot k .reset).clearPointerAt k).slotReply k

/-- The binding of a slot: NONE 0, A 1, B 2, A AND B 3 (R61, log 20). -/
def Engine.bindingCode (e : Engine) (k : SlotId) : Nat :=
  (e.bankA == some k).toNat + 2 * (e.bankB == some k).toNat

/-- A failure record, or three bytes 0xFF when it is absent (R61, R73, log 9). -/
def failureBytes : Option Failure → List Byte
  | some f => f.bytes
  | none => u8 0xFF ++ u8 0xFF ++ u8 0xFF

/-- Whether the pointer names a slot, and its spoke, position and part, 0 where it does not (R61, log 9). -/
def State.pointerAt (s : State) (k : SlotId) : List Byte :=
  match s.pointer with
  | some p => if p.slot = k then flag true ++ u8 p.spoke ++ u8 p.pos ++ u8 p.part.code else flag false ++ u24 0
  | none => flag false ++ u24 0

/-- PLAN READ (R61). -/
def State.planRead (slot spoke : Byte) (s : State) : Reply :=
  match below 8 slot, below 32 spoke with
  | some k, some i =>
    let v := s.slots[k]
    s.answer (u8 k ++ u8 v.state.code ++ u8 (s.engine.bindingCode k) ++ failureBytes v.failure ++ u8 i ++
      opt8 (v.plan[i].expect.map (·.val)) ++ v.plan[i].cells.toList.flatMap cellBytes ++ s.pointerAt k)
  | _, _ => s.refuse .range

/-! ## Trim streaming (R68 to R74) -/

/-- Whether a slot takes trims: LOADING or READY. -/
def SlotState.trims : SlotState → Bool
  | .loading | .ready => true
  | .empty | .rejected => false

/-- TRIM POINT (R69). -/
def State.trimPoint (slot spoke pos : Byte) (s : State) : Reply :=
  match below 8 slot, below 32 spoke, below 4 pos with
  | some k, some i, some c =>
    if s.slots[k].state.trims then
      ⟨.done, pointerBytes (some ⟨k, i, c, .dl⟩), { s with pointer := some ⟨k, i, c, .dl⟩, staging := ⟨none, none⟩ }⟩
    else s.refuse .wrongState
  | _, _, _ => s.refuse .range

/-- The part after a part (R70). -/
def Part.next : Part → Part
  | .dl => .ul
  | .ul => .delay
  | .delay => .dl

/-- Whether every value fits the part it will land in (R70): below 64 at DL and UL. -/
def trimsFit : Part → List Byte → Bool
  | _, [] => true
  | p, v :: vs => (p == .delay || decide (v.toNat < 64)) && trimsFit p.next vs

/-- The pointer after a value (R71): the next part, after DELAY part DL of the next cell. -/
def Pointer.advance (p : Pointer) : Pointer :=
  match p.part with
  | .dl => { p with part := .ul }
  | .ul => { p with part := .delay }
  | .delay =>
    { p with part := .dl
             pos := p.pos + 1
             spoke := if p.pos = 3 then p.spoke + 1 else p.spoke }

/-- How a commit is taken (R72). -/
inductive CommitOutcome where
  | made | skipped | refused (reason : FailReason)
deriving DecidableEq, Repr

/-- The level check of a commit onto a cell (R72). -/
def State.commitCheck (s : State) (e : Entry) (f : FeedId) (down : Fin 64) : CommitOutcome :=
  match e.expect with
  | none => .made
  | some c =>
    match s.store.nodeClass c with
    | none => .refused .classAbsent
    | some cls => if s.levelExceeds cls f down then .refused .level else .made

/-- A commit onto the pointed cell (R72). -/
def State.commit (p : Pointer) (delay : Byte) (s : State) : CommitOutcome × State :=
  let e := s.slots[p.slot].plan[p.spoke]
  match e.cells[p.pos], s.staging.down, s.staging.up with
  | some c, some d, some u =>
    match s.commitCheck e c.feed d with
    | .made =>
      (.made, s.setSlot p.slot
        { s.slots[p.slot] with plan := s.slots[p.slot].plan.writeCell (p.spoke, p.pos, some ⟨c.feed, d, u, delay.toFin⟩) })
    | .skipped => (.skipped, s)
    | .refused r => (.refused r, s)
  | _, _, _ => (.skipped, s)

/-- The landing of a message so far: the counts of R73 and the state. -/
structure Landing where
  made    : Nat
  skipped : Nat
  refused : Nat
  first   : Option Failure
  state   : State
deriving DecidableEq, Repr

/-- The counts after a commit (R73). -/
def Landing.count (l : Landing) (p : Pointer) : CommitOutcome → Landing
  | .made => { l with made := l.made + 1 }
  | .skipped => { l with skipped := l.skipped + 1 }
  | .refused r => { l with refused := l.refused + 1, first := l.first.or (some ⟨p.spoke, some p.pos, r⟩) }

/-- One value landed (R71): staged at DL and UL, committed at DELAY. -/
def Landing.land (l : Landing) (v : Byte) : Landing :=
  match l.state.pointer with
  | none => l
  | some p =>
    match p.part with
    | .dl => { l with state := { l.state with staging := ⟨below 64 v, none⟩, pointer := some p.advance } }
    | .ul =>
      { l with state := { l.state with staging := ⟨l.state.staging.down, below 64 v⟩, pointer := some p.advance } }
    | .delay =>
      let (o, t) := l.state.commit p v
      { l.count p o with state := { t with staging := ⟨none, none⟩, pointer := some p.advance } }

/-- A refused TRIM gives the pointer and the staging record (R73, R170). -/
def State.refuseTrim (st : Status) (s : State) : Reply := ⟨st, pointerBytes s.pointer ++ s.staging.bytes, s⟩

/-- TRIM (R70 to R73). -/
def State.trim (values : List Byte) (s : State) : Reply :=
  match s.pointer with
  | none => s.refuseTrim .noPointer
  | some p =>
    if !s.slots[p.slot].state.trims then s.refuseTrim .wrongState
    else if !trimsFit p.part values then s.refuseTrim .range
    else
      let l := values.foldl Landing.land ⟨0, 0, 0, none, s⟩
      ⟨.done, u8 l.made ++ u8 l.skipped ++ u8 l.refused ++ failureBytes l.first ++ pointerBytes l.state.pointer ++
        l.state.staging.bytes, l.state⟩

/-! ## Steps -/

/-- PLAN OPEN -/
def execPlanOpen (tag slot : Byte) (s : State) : Host.Outcome State Fault Refusal :=
  .next (s.command (.planOpen tag slot) (State.planOpen slot))

/-- PLAN EDIT -/
def execPlanEdit (tag slot : Byte) (s : State) : Host.Outcome State Fault Refusal :=
  .next (s.command (.planEdit tag slot) (State.planEdit slot))

/-- PLAN CELL -/
def execPlanCell (tag slot : Byte) (entries : List CellEntry) (s : State) : Host.Outcome State Fault Refusal :=
  .next (s.command (.planCell tag slot entries) (State.planCell slot entries))

/-- PLAN EXPECT -/
def execPlanExpect (tag slot : Byte) (pairs : List ExpectPair) (s : State) : Host.Outcome State Fault Refusal :=
  .next (s.command (.planExpect tag slot pairs) (State.planExpect slot pairs))

/-- PLAN CLOSE -/
def execPlanClose (tag slot : Byte) (s : State) : Host.Outcome State Fault Refusal :=
  .next (s.command (.planClose tag slot) (State.planClose slot))

/-- PLAN DROP -/
def execPlanDrop (tag slot : Byte) (s : State) : Host.Outcome State Fault Refusal :=
  .next (s.command (.planDrop tag slot) (State.planDrop slot))

/-- PLAN READ -/
def execPlanRead (tag slot spoke : Byte) (s : State) : Host.Outcome State Fault Refusal :=
  .next (s.command (.planRead tag slot spoke) (State.planRead slot spoke))

/-- TRIM POINT -/
def execTrimPoint (tag slot spoke pos : Byte) (s : State) : Host.Outcome State Fault Refusal :=
  .next (s.command (.trimPoint tag slot spoke pos) (State.trimPoint slot spoke pos))

/-- TRIM -/
def execTrim (tag : Byte) (values : List Byte) (s : State) : Host.Outcome State Fault Refusal :=
  .next (s.command (.trim tag values) (State.trim values))

end Sys2Proof.Machine
end

