-- ==== Sys2Proof/Machine/StoreOps.lean ====
section
/-! DEFINITION. The Store Controller (08): the ends of its operations and the store commands. -/

namespace Sys2Proof.Machine

/-- The Store Controller changed. -/
def State.mapStore (f : Store → Store) (s : State) : State := { s with store := f s.store }

/-- An entry for each record of a page replaced (R142). -/
def onPage {α : Type} (p : PageId) (a : α) (v : Vector α 16) : Vector α 16 :=
  tabulate fun r => if pageOf r = p then a else v[r]

/-- The contents of a present record: VALID on an INTACT page (R143). -/
def Store.present (st : Store) (r : RecordId) : Option Contents :=
  match st.records[r] with
  | .valid c => if st.intact[pageOf r] then some c else none
  | .blank | .spoiled => none

/-- The engine's boundary count (R145). -/
def Store.boundary (st : Store) : Store := { st with left := st.left - 1 }

/-- Whether the operation in flight ends at the boundary in hand. -/
def Store.ends (st : Store) : Bool := st.engine != .idle && st.left == 0

/-! ## Ends of operations (R147, R151 to R153) -/

/-- The start-up read ends (R147): the working copy takes every present record. -/
def Store.endRead (st : Store) : Store :=
  { st with working := tabulate st.present, engine := .idle }

/-- An erase ends (R151): BLANK and INTACT where it reads back, else SPOILED and TORN; absent, and no longer withdrawing,
in the working copy. -/
def Store.endErase (p : PageId) (readsBack : Bool) (st : Store) : Store :=
  { st with
    records := onPage p (if readsBack then .blank else .spoiled) st.records
    intact := st.intact.set p readsBack
    working := onPage p none st.working
    withdrawing := st.withdrawing.set p false
    engine := .idle }

/-- A record write ends (R152): VALID and present where it reads back, else SPOILED and absent. -/
def Store.endWrite (r : RecordId) (c : Contents) (readsBack : Bool) (st : Store) : Store :=
  { st with
    records := st.records.set r (if readsBack then .valid c else .spoiled)
    working := if readsBack then st.working.set r (some c) else st.working
    engine := .idle }

/-- STORE_END of an operation: ERASE 1, WRITE 2, LOCK 3 (R172); a lock write names no page or record, 0xFF (log 9). -/
def State.raiseStoreEnd (op place : Nat) (failed : Bool) (s : State) : State :=
  s.raise chStoreEnd none (.storeEnd op place failed)

/-- The start-up read's end, where its boundary is in hand. -/
def State.readEnd (s : State) : State :=
  if s.store.ends && s.store.engine == .reading then s.mapStore Store.endRead else s

/-- An erase's end, where its boundary is in hand. -/
def State.eraseEnd (readsBack : Bool) (s : State) : State :=
  match s.store.engine with
  | .erasing p =>
    if s.store.ends then (s.mapStore (Store.endErase p readsBack)).raiseStoreEnd 1 p.val (!readsBack) else s
  | .idle | .reading | .writing _ _ | .locking => s

/-- A record write's end, where its boundary is in hand. -/
def State.writeEnd (readsBack : Bool) (s : State) : State :=
  match s.store.engine with
  | .writing r c =>
    if s.store.ends then (s.mapStore (Store.endWrite r c readsBack)).raiseStoreEnd 2 r.val (!readsBack) else s
  | .idle | .reading | .erasing _ | .locking => s

/-- A lock write's end, where its boundary is in hand (R153). -/
def State.lockEnd (s : State) : State :=
  if s.store.ends && s.store.engine == .locking then
    (s.mapStore fun st => { st with engine := .idle }).raiseStoreEnd 3 0xFF false
  else s

/-- The end of the operation in flight as a turn of the boundary in hand. -/
def State.storeTurn (readsBack : Bool) (s : State) : State :=
  match s.store.engine with
  | .idle => s
  | .reading => s.readEnd
  | .erasing _ => s.eraseEnd readsBack
  | .writing _ _ => s.writeEnd readsBack
  | .locking => s.lockEnd

/-! ## Store commands (R149 to R153) -/

/-- STORE READ (R149, R176): a withdrawing record shows as not present. -/
def State.storeRead (record : Byte) (s : State) : Reply :=
  match below 16 record with
  | none => s.refuse .range
  | some r =>
    let st := s.store
    let contents : List Byte :=
      match st.records[r] with
      | .valid c => flag true ++ c.bytes
      | .blank | .spoiled => flag false ++ u16 0 ++ u16 0
    s.answer (u8 r ++ u8 st.records[r].code ++ contents ++ flag (!st.intact[pageOf r]) ++ flag (st.lookup r).isSome ++
      flag st.withdrawing[pageOf r] ++ flag st.locked ++ u8 st.engine.code ++ u8 st.engine.place)

/-- The entries of the plans bound to a bank (R54). -/
def State.boundEntries (s : State) : List Entry :=
  ((List.finRange 8).filter fun k : SlotId => s.engine.holds k).flatMap fun k : SlotId => s.slots[k].plan.toList

/-- An operator is referenced (R150): by a feed that is not UNUSED, or by a feed that a bound plan names. -/
def State.operatorInUse (s : State) (o : Fin 8) : Bool :=
  allFeeds.any fun f : FeedId =>
    s.feeds[f].operator == o && (s.feeds[f].state != .unused || s.boundEntries.any fun e => e.names f)

/-- A node class is referenced (R150): expected by a bound plan, or the known class of a spoke. -/
def State.classInUse (s : State) (c : NodeClass) : Bool :=
  (s.boundEntries.any fun e => e.expect == some c) || s.spokes.toList.any fun r => r.knownClass == some c

/-- A store record is referenced. -/
def State.recordInUse (s : State) (r : RecordId) : Bool :=
  if h : r.val < 8 then s.operatorInUse ⟨r.val, h⟩ else s.classInUse ⟨r.val - 8, by omega⟩

/-- Whether a record of a page is referenced (R150). -/
def State.pageInUse (s : State) (p : PageId) : Bool :=
  (List.finRange 16).any fun r : RecordId => decide (pageOf r = p) && s.recordInUse r

/-- An erase begins (R150). -/
def Store.startErase (p : PageId) (st : Store) : Store :=
  { st with
    records := onPage p .spoiled st.records
    intact := st.intact.set p false
    withdrawing := st.withdrawing.set p true
    engine := .erasing p
    left := 40 }

/-- STORE ERASE (R150). -/
def State.storeErase (page : Byte) (s : State) : Reply :=
  match below 4 page with
  | none => s.refuse .range
  | some p =>
    if s.store.locked then s.refuse .locked
    else if s.store.engine ≠ .idle then s.refuse .busy
    else if s.pageInUse p then s.refuse .inUse
    else ⟨.started, [], s.mapStore (Store.startErase p)⟩

/-- A record write begins (R152). -/
def Store.startWrite (r : RecordId) (c : Contents) (st : Store) : Store :=
  { st with records := st.records.set r .spoiled, engine := .writing r c, left := 4 }

/-- STORE WRITE's operands; none is RANGE (R152, R176). -/
def storeWriteOf (record c0 c1 c2 c3 : Byte) : Option (RecordId × Contents) :=
  match below 16 record with
  | none => none
  | some r => (contentsOf r c0 c1 c2 c3).map fun c => (r, c)

/-- STORE WRITE (R152). -/
def State.storeWrite (record c0 c1 c2 c3 : Byte) (s : State) : Reply :=
  match storeWriteOf record c0 c1 c2 c3 with
  | none => s.refuse .range
  | some (r, c) =>
    if s.store.locked then s.refuse .locked
    else if s.store.engine ≠ .idle then s.refuse .busy
    else if !s.store.intact[pageOf r] then s.refuse .torn
    else if s.store.records[r] ≠ .blank then s.refuse .wrongState
    else ⟨.started, [], s.mapStore (Store.startWrite r c)⟩

/-- STORE LOCK (R153): the lock is set at once, for good. -/
def State.storeLock (s : State) : Reply :=
  if s.store.locked then s.refuse .locked
  else if s.store.engine ≠ .idle then s.refuse .busy
  else ⟨.started, [], s.mapStore fun st => { st with locked := true, engine := .locking, left := 4 }⟩

/-! ## Steps -/

/-- STARTUP_READ_END -/
def execStartupReadEnd (s : State) : Host.Outcome State Fault Refusal := .next s.readEnd

/-- STORE_ERASE_END -/
def execStoreEraseEnd (readsBack : Bool) (s : State) : Host.Outcome State Fault Refusal := .next (s.eraseEnd readsBack)

/-- STORE_WRITE_END -/
def execStoreWriteEnd (readsBack : Bool) (s : State) : Host.Outcome State Fault Refusal := .next (s.writeEnd readsBack)

/-- STORE_LOCK_END -/
def execStoreLockEnd (s : State) : Host.Outcome State Fault Refusal := .next s.lockEnd

/-- STORE READ -/
def execStoreRead (tag record : Byte) (s : State) : Host.Outcome State Fault Refusal :=
  .next (s.command (.storeRead tag record) (State.storeRead record))

/-- STORE ERASE -/
def execStoreErase (tag page : Byte) (s : State) : Host.Outcome State Fault Refusal :=
  .next (s.command (.storeErase tag page) (State.storeErase page))

/-- STORE WRITE -/
def execStoreWrite (tag record c0 c1 c2 c3 : Byte) (s : State) : Host.Outcome State Fault Refusal :=
  .next (s.command (.storeWrite tag record c0 c1 c2 c3) (State.storeWrite record c0 c1 c2 c3))

/-- STORE LOCK -/
def execStoreLock (tag : Byte) (s : State) : Host.Outcome State Fault Refusal :=
  .next (s.command (.storeLock tag) State.storeLock)

end Sys2Proof.Machine
end

