-- ==== Sys2Proof/Machine/Cutover.lean ====
section
/-! DEFINITION. Banks and the Cutover Engine (04): binding, the sweep order, cutovers and their steps, HALT, FOLD and relief
requests. What the engine does when it is told of a spoke is in Ops. -/

namespace Sys2Proof.Machine

/-- The engine changed. -/
def State.mapEngine (f : Engine → Engine) (s : State) : State := { s with engine := f s.engine }

/-- A bank's binding; true is bank B. -/
def Engine.binding (e : Engine) (b : Bool) : Option SlotId := if b then e.bankB else e.bankA

/-- A bank's binding replaced. -/
def Engine.bind (b : Bool) (v : Option SlotId) (e : Engine) : Engine :=
  if b then { e with bankB := v } else { e with bankA := v }

/-- Bank A has followers when the line is below 32, bank B when it is above 0 (R76). -/
def Engine.hasFollowers (e : Engine) (b : Bool) : Bool :=
  if b then decide (0 < e.line.val) else decide (e.line.val < 32)

/-! ## Binding (R78 to R80) -/

/-- The act of a bind on one spoke (R79): a LIVE follower of the bank gets the restore settle, then the class check. -/
def State.settleFollower (b : Bool) (i : SpokeId) (s : State) : State :=
  if s.spokes[i].state = .live ∧ s.engine.followsB i = b then (s.settleStart i s.restoreSettle).classCheck i else s

/-- BANK BIND (R78, R79). -/
def State.bankBind (bank slot : Byte) (s : State) : Reply :=
  match bankOf bank, below 8 slot with
  | some b, some k =>
    if s.engine.state ≠ .idle then s.refuse .busy
    else if s.slots[k].state ≠ .ready then s.refuse .wrongState
    else if (s.engine.binding b).isSome ∧ s.engine.hasFollowers b then s.refuse .inUse
    else
      match s.admission false s.slots[k].plan with
      | some f => ⟨.entitlement, f.bytes, s⟩
      | none =>
        let t := eachSpoke (State.settleFollower b) (s.mapEngine (·.bind b (some k)))
        ⟨.done, bindingBytes t.engine.bankA ++ bindingBytes t.engine.bankB, t⟩
  | _, _ => s.refuse .range

/-- BANK RELEASE (R80). -/
def State.bankRelease (bank : Byte) (s : State) : Reply :=
  match bankOf bank with
  | none => s.refuse .range
  | some b =>
    if s.engine.state ≠ .idle then s.refuse .busy
    else if (s.engine.binding b).isSome ∧ s.engine.hasFollowers b then s.refuse .inUse
    else (s.mapEngine (·.bind b none)).doneWith

/-- A sweep order from its 32 numbers; none where they are no permutation of 0 to 31 (R81). -/
def orderOf (order : List Byte) : Option (Vector SpokeId 32) :=
  match readAll (below 32) order with
  | some l => if h : l.length = 32 ∧ l.Nodup then some ⟨⟨l⟩, by simpa using h.1⟩ else none
  | none => none

/-- SWEEP ORDER (R81). -/
def State.sweepOrder (order : List Byte) (s : State) : Reply :=
  match orderOf order with
  | none => s.refuse .range
  | some o =>
    if s.engine.state ≠ .idle then s.refuse .busy
    else if 0 < s.engine.line.val ∧ s.engine.line.val < 32 then s.refuse .inUse
    else (s.mapEngine fun e => { e with order := o }).doneWith

/-! ## Starting a cutover (R82, R90) -/

/-- The bank that a move of the line to a target needs is bound (R82, R90). -/
def Engine.neededBound (e : Engine) (target : Fin 33) : Bool :=
  if e.line < target then e.bankB.isSome else e.bankA.isSome

/-- An accepted cutover (R27, R82): its parameters are kept and the restore settle becomes its settle time. -/
def State.acceptCutover (p : Params) (s : State) : State :=
  { s with engine := { s.engine with params := some p }, restoreSettle := p.settle }

/-- A cutover that starts (R82): STEPPING with no step taken; the first step is due at the next boundary. -/
def State.startCutover (p : Params) (s : State) : State :=
  let t := s.acceptCutover p
  { t with engine := { t.engine with state := .stepping, current := none }, due := { t.due with step := false } }

/-- CUTOVER's operands; none is RANGE (R82, R170). -/
def paramsOf (target interval settle fold : Byte) : Option Params :=
  match below 33 target, within 1 255 interval.toNat, below 64 settle, flagOf fold with
  | some t, some i, some n, some f => some ⟨t, i, n, f, .command⟩
  | _, _, _, _ => none

/-- The engine state and the line, the body of CUTOVER's answer (R82). -/
def Engine.standing (e : Engine) : List Byte := u8 e.state.code ++ u8 e.line

/-- CUTOVER (R82). -/
def State.cutover (target interval settle fold : Byte) (s : State) : Reply :=
  match paramsOf target interval settle fold with
  | none => s.refuse .range
  | some p =>
    if s.engine.state ≠ .idle then s.refuse .busy
    else if p.target = s.engine.line then
      let t := s.acceptCutover p
      ⟨.done, t.engine.standing, t⟩
    else if s.engine.neededBound p.target then
      let t := s.startCutover p
      ⟨.started, t.engine.standing, t⟩
    else s.refuse .wrongState

/-- A relief request of a group (R90): the outcome and the state after it. -/
def State.relieve (g : GroupId) (r : Relief) (s : State) : ReliefState × State :=
  if s.engine.state ≠ .idle then (.busy, s)
  else if r.target = s.engine.line then (.atTarget, s)
  else if s.engine.neededBound r.target then
    (.fired, s.startCutover ⟨r.target, r.interval, r.settle, false, .relief g⟩)
  else (.unbound, s)

/-! ## Steps (R83, R84) -/

/-- A spoke moved across the line (R84, R85): a LIVE spoke gets the settle time and the class check; a step on a spoke
that is not LIVE, that its check isolated, or with settle time 0 is complete at once. -/
def State.moveAcross (i : SpokeId) (up : Bool) (line : Fin 33) (p : Params) (s : State) : State :=
  let t := s.mapEngine fun e => { e with line := line, current := some ⟨i, up, false, 0⟩ }
  if t.spokes[i].state = .live then
    let u := (t.settleStart i p.settle).classCheck i
    if p.settle = 0 then u.tellEngine i else u
  else t.tellEngine i

/-- A step toward the target (R84). -/
def State.takeStep (s : State) : State :=
  match s.engine.params with
  | none => s
  | some p =>
    if h : s.engine.line.val < p.target.val then
      s.moveAcross (s.engine.order[s.engine.line.val]'(by omega)) true ⟨s.engine.line.val + 1, by omega⟩ p
    else if h : p.target.val < s.engine.line.val then
      s.moveAcross (s.engine.order[s.engine.line.val - 1]'(by omega)) false ⟨s.engine.line.val - 1, by omega⟩ p
    else s

/-- Whether a step is due at a boundary, from the engine as it stands at the close of the frame (R83). -/
def Engine.stepDue (e : Engine) : Bool :=
  e.state == .stepping &&
    match e.params with
    | none => false
    | some p =>
      p.target != e.line &&
        match e.current with
        | none => true
        | some c => c.complete && decide (p.interval ≤ c.frames + 1)

/-- The engine's count at a boundary (R83): where no step is due, the frames since the current step began rise by 1,
held at 255. -/
def Engine.boundary (e : Engine) : Engine :=
  if e.stepDue then e
  else { e with current := e.current.map fun c => { c with frames := min 255 (c.frames + 1) } }

/-- The step due at the boundary in hand (R83, R91): the engine takes none unless it is still STEPPING. -/
def State.stepTurn (s : State) : State :=
  if s.due.step then
    let t := { s with due := { s.due with step := false } }
    if t.engine.state = .stepping then t.takeStep else t
  else s

/-! ## HALT, FOLD, CUTOVER READ (R87 to R89) -/

/-- Whether a step is in hand: taken and not complete. -/
def Engine.stepInHand (e : Engine) : Bool :=
  match e.current with
  | some c => !c.complete
  | none => false

/-- HALT (R87). -/
def State.halt (s : State) : Reply :=
  match s.engine.state with
  | .idle => s.refuse .wrongState
  | .halting => s.doneWith
  | .stepping =>
    let t := s.mapEngine fun e => { e with state := .halting }
    if s.engine.stepInHand then t.doneWith else (t.endCutover true).doneWith

/-- FOLD (R88). -/
def State.foldBanks (s : State) : Reply :=
  if s.engine.state ≠ .idle then s.refuse .busy
  else if s.engine.line.val < 32 then s.refuse .wrongState
  else (s.mapEngine (·.fold)).doneWith

/-- Frames to next step (R89): 0xFFFF is absent and 0xFFFE is WAITING (section 10.3). -/
def Engine.toNextStep (e : Engine) : Nat :=
  if e.state ≠ .stepping then 0xFFFF else
    match e.current with
    | none => 0
    | some c => if c.complete then (e.params.map (·.interval)).getD 0 - c.frames else 0xFFFE

/-- CUTOVER READ (R89); items that may be absent as section 10.3 gives (log 9). The byte of the origin is the model's choice
(log 26). -/
def State.cutoverRead (s : State) : Reply :=
  let e := s.engine
  s.answer (u8 e.state.code ++ u8 e.line ++ bindingBytes e.bankA ++ bindingBytes e.bankB ++
    opt8 (e.params.map (·.target.val)) ++ present8 (e.params.map (·.interval)) ++ opt8 (e.params.map (·.settle.val)) ++
    opt8 (e.params.map (·.fold.toNat)) ++ opt8 (e.params.map (·.origin.code)) ++
    opt8 (e.current.map (·.spoke.val)) ++ opt8 (e.current.map fun c => (!c.up).toNat) ++
    opt8 (e.current.map (·.complete.toNat)) ++ opt8 (e.current.map fun c => s.spokes[c.spoke].settle) ++
    u16 e.toNextStep ++ u8 s.restoreSettle)

/-! ## Steps of the table -/

/-- CUTOVER_STEP -/
def execCutoverStep (s : State) : Host.Outcome State Fault Refusal := .next s.stepTurn

/-- BANK BIND -/
def execBankBind (tag bank slot : Byte) (s : State) : Host.Outcome State Fault Refusal :=
  .next (s.command (.bankBind tag bank slot) (State.bankBind bank slot))

/-- BANK RELEASE -/
def execBankRelease (tag bank : Byte) (s : State) : Host.Outcome State Fault Refusal :=
  .next (s.command (.bankRelease tag bank) (State.bankRelease bank))

/-- SWEEP ORDER -/
def execSweepOrder (tag : Byte) (order : List Byte) (s : State) : Host.Outcome State Fault Refusal :=
  .next (s.command (.sweepOrder tag order) (State.sweepOrder order))

/-- CUTOVER -/
def execCutover (tag target interval settle fold : Byte) (s : State) : Host.Outcome State Fault Refusal :=
  .next (s.command (.cutover tag target interval settle fold) (State.cutover target interval settle fold))

/-- HALT -/
def execHalt (tag : Byte) (s : State) : Host.Outcome State Fault Refusal := .next (s.command (.halt tag) State.halt)

/-- FOLD -/
def execFold (tag : Byte) (s : State) : Host.Outcome State Fault Refusal := .next (s.command (.fold tag) State.foldBanks)

/-- CUTOVER READ -/
def execCutoverRead (tag : Byte) (s : State) : Host.Outcome State Fault Refusal :=
  .next (s.command (.cutoverRead tag) State.cutoverRead)

end Sys2Proof.Machine
end

