-- ==== Sys2Proof/Machine/Watch.lean ====
section
/-! DEFINITION. The Watch Unit (05, sections 5.1 and 5.2): meters, watch groups and their commands. -/

namespace Sys2Proof.Machine

/-! ## Meters (R95) -/

/-- A meter moved one sixteenth of the way toward an energy, the difference rounded down (R95). -/
def moveMeter (v e : Nat) : Nat := if v < e then v + (e - v) / 16 else v - (v - e) / 16

/-- A meter at a boundary, from the spoke's record at the close of the frame and the energy handed (R95). -/
def Meter.boundary (r : SpokeRec) (e : Nat) (m : Meter) : Meter :=
  if r.state = .live ∧ r.settle = 0 then ⟨moveMeter m.value e, false⟩ else ⟨m.value, true⟩

/-! ## Groups (R97 to R101) -/

/-- The load of a group: the sum of its members' meters, stale or not (R97). -/
def loadOf (meters : Vector Meter 32) (members : BitVec 32) : Nat :=
  ((allSpokes.filter fun i : SpokeId => members.getLsbD i).map fun i : SpokeId => meters[i].value).sum

/-- A group's load as the meters stand. -/
def State.load (s : State) (g : GroupId) : Nat := loadOf s.meters s.groups[g].members

/-- Whether a group's dwell runs out at this evaluation (R98, R99): CROWDED_ENTRY or GROUP_CALM. -/
def Group.turns (load : Nat) (g : Group) : Bool :=
  match g.state with
  | .rising => decide (g.high < load) && decide (g.remaining ≤ 1)
  | .falling => decide (load < g.low) && decide (g.remaining ≤ 1)
  | .off | .calm | .crowded => false

/-- A group's evaluation at a boundary (R98, R99), where its dwell does not run out. -/
def Group.evaluate (load : Nat) (g : Group) : Group :=
  if g.turns load then g else
  match g.state with
  | .off => g
  | .calm => if g.high < load then { g with state := .rising, remaining := g.dwell } else g
  | .rising => if g.high < load then { g with remaining := g.remaining - 1 } else { g with state := .calm, remaining := 0 }
  | .crowded => if load < g.low then { g with state := .falling, remaining := g.dwell } else g
  | .falling => if load < g.low then { g with remaining := g.remaining - 1 } else { g with state := .crowded, remaining := 0 }

/-- A group record changed. -/
def State.mapGroup (g : GroupId) (f : Group → Group) (s : State) : State := { s with groups := update s.groups g f }

/-- A group enters CROWDED (R100): its relief request, if it carries one, then CROWD_HIGH. -/
def State.crowd (g : GroupId) (s : State) : State :=
  let t := s.mapGroup g fun r => { r with state := .crowded, remaining := 0 }
  match s.groups[g].relief with
  | none => t.raise chCrowdHigh (some g.val) (.crowdHigh (s.load g) .none)
  | some r =>
    let (outcome, u) := t.relieve g r
    (u.mapGroup g fun r => { r with reliefState := outcome }).raise chCrowdHigh (some g.val)
      (.crowdHigh (s.load g) outcome)

/-- A group becomes CALM (R99). -/
def State.calm (g : GroupId) (s : State) : State :=
  (s.mapGroup g fun r => { r with state := .calm, remaining := 0 }).raise chCrowdLow (some g.val) (.crowdLow (s.load g))

/-- A group's turn of the boundary in hand taken off. -/
def State.clearGroupTurn (g : GroupId) (s : State) : State :=
  { s with due := { s.due with groups := s.due.groups.set g false } }

/-- The CROWDED entry due at the boundary in hand (R98, R100). -/
def State.crowdTurn (g : GroupId) (s : State) : State :=
  if s.due.groups[g] && s.groups[g].state == .rising then (s.clearGroupTurn g).crowd g else s

/-- The CALM entry due at the boundary in hand (R99). -/
def State.calmTurn (g : GroupId) (s : State) : State :=
  if s.due.groups[g] && s.groups[g].state == .falling then (s.clearGroupTurn g).calm g else s

/-- Either turn of a group. -/
def State.groupTurn (g : GroupId) (s : State) : State :=
  if s.groups[g].state = .rising then s.crowdTurn g else s.calmTurn g

/-! ## Watch commands (R96, R102 to R104) -/

/-- The largest threshold: thirty-two members at full scale (section 5.2). -/
def maxThreshold : Nat := 2097120

/-- METER READ (R96, R171). -/
def State.meterRead (spokes : List Byte) (s : State) : Reply :=
  match readAll (below 32) spokes with
  | none => s.refuse .range
  | some l => s.answer (meterBody (l.map fun i : SpokeId => s.meters[i]))

/-- The record that WATCH SET writes; none is RANGE (R102). -/
def groupOf (members : BitVec 32) (high low : BitVec 24) (dwell present target interval settle : Byte) : Option Group :=
  match within 0 maxThreshold high.toNat, within 0 maxThreshold low.toNat, within 1 255 dwell.toNat,
      reliefOf present target interval settle with
  | some h, some l, some d, some r => if l < h then some ⟨members, h, l, d, r, .calm, 0, .none⟩ else none
  | _, _, _, _ => none

/-- WATCH SET (R102). -/
def State.watchSet (group : Byte) (members : BitVec 32) (high low : BitVec 24)
    (dwell present target interval settle : Byte) (s : State) : Reply :=
  match below 8 group, groupOf members high low dwell present target interval settle with
  | some g, some r => ((s.clearGroupTurn g).mapGroup g fun _ => r).doneWith
  | _, _ => s.refuse .range

/-- WATCH OFF (R103). -/
def State.watchOff (group : Byte) (s : State) : Reply :=
  match below 8 group with
  | none => s.refuse .range
  | some g => ((s.clearGroupTurn g).mapGroup g fun r => { r with state := .off, remaining := 0 }).doneWith

/-- A relief as a presence byte, target, interval and settle, 0 when absent (section 10.3). -/
def reliefBytes : Option Relief → List Byte
  | some r => flag true ++ u8 r.target ++ u8 r.interval ++ u8 r.settle
  | none => flag false ++ u24 0

/-- The number of members whose meters are stale (R104). -/
def State.staleMembers (s : State) (g : GroupId) : Nat :=
  (allSpokes.filter fun i : SpokeId => s.groups[g].members.getLsbD i && s.meters[i].stale).length

/-- WATCH READ (R104). The byte of the relief state is the model's choice (log 26). -/
def State.watchRead (group : Byte) (s : State) : Reply :=
  match below 8 group with
  | none => s.refuse .range
  | some g =>
    let r := s.groups[g]
    s.answer (u8 g ++ wordBytes r.members ++ u24 r.high ++ u24 r.low ++ u8 r.dwell ++ reliefBytes r.relief ++
      u8 r.state.code ++ u8 r.remaining ++ u8 r.reliefState.code ++ u24 (s.load g) ++ u8 (s.staleMembers g))

/-! ## Steps -/

/-- CROWDED_ENTRY -/
def execCrowdedEntry (g : GroupId) (s : State) : Host.Outcome State Fault Refusal := .next (s.crowdTurn g)

/-- GROUP_CALM -/
def execGroupCalm (g : GroupId) (s : State) : Host.Outcome State Fault Refusal := .next (s.calmTurn g)

/-- WATCH SET -/
def execWatchSet (tag group : Byte) (members : BitVec 32) (high low : BitVec 24)
    (dwell present target interval settle : Byte) (s : State) : Host.Outcome State Fault Refusal :=
  .next (s.command (.watchSet tag group members high low dwell present target interval settle)
    (State.watchSet group members high low dwell present target interval settle))

/-- WATCH OFF -/
def execWatchOff (tag group : Byte) (s : State) : Host.Outcome State Fault Refusal :=
  .next (s.command (.watchOff tag group) (State.watchOff group))

/-- WATCH READ -/
def execWatchRead (tag group : Byte) (s : State) : Host.Outcome State Fault Refusal :=
  .next (s.command (.watchRead tag group) (State.watchRead group))

/-- METER READ -/
def execMeterRead (tag : Byte) (spokes : List Byte) (s : State) : Host.Outcome State Fault Refusal :=
  .next (s.command (.meterRead tag spokes) (State.meterRead spokes))

end Sys2Proof.Machine
end

