-- ==== Sys2Proof/Machine/Boundary.lean ====
section
/-! DEFINITION. The frame boundary (R1): what it does at once, the turns that blocks take at it in an order the manual
leaves open (R42, R91, R92, R125, R154), and the rows that are such turns. -/

namespace Sys2Proof.Machine

/-! ## Turns -/

/-- One turn of the boundary in hand; a turn that is not due does nothing. -/
def State.takeTurn (t : Turn) (s : State) : State :=
  match t with
  | .report => s.reportTurn
  | .train i => s.trainTurn i
  | .settleEnd i => s.settleTurn i
  | .poll i => s.pollTurn i
  | .group g => s.groupTurn g
  | .cutover => s.stepTurn
  | .evaluate i => s.evaluateTurn i
  | .captureEnd => s.captureEndTurn
  | .captureStart => s.captureStartTurn
  | .storeEnd readsBack => s.storeTurn readsBack
  | .abandon => s.abandonTurn

/-- Turns taken one after another. -/
def State.takeTurns (ts : List Turn) (s : State) : State := ts.foldl (fun t x => t.takeTurn x) s

/-- The end of the store engine's operation where no row has brought it: its read-back is a free value (log 6), used only
where the operation reads back. -/
def State.freeStoreEnd (s : State) : State :=
  if s.store.ends then
    match s.store.engine with
    | .erasing _ | .writing _ _ =>
      { s with freeCount := s.freeCount + 1 }.storeTurn (Config.readBack s.freeCount)
    | .idle | .reading | .locking => s.storeTurn true
  else s

/-- Whether a turn of the boundary in hand is left (log 2). -/
def State.turnsLeft (s : State) : Bool := s.due != .empty || s.store.ends

/-- The turns left at the boundary in hand are taken, in an order of the model's (log 2). -/
def State.closeBoundary (s : State) : State :=
  if s.turnsLeft then
    let s := s.lateReports.takeTurns (allSpokes.map .train)
    let s := s.takeTurns ([.cutover] ++ allSpokes.map .settleEnd ++ allSpokes.map .poll)
    let s := s.takeTurns ((List.finRange 8).map .group ++ allSpokes.map .evaluate)
    let s := (s.takeTurns [.captureEnd, .captureStart]).freeStoreEnd.abandonTurn
    { s with due := .empty }
  else s

/-! ## The boundary itself -/

/-- The turns due at a boundary, from the state at the close of the frame; the groups' turns follow the meters. -/
def State.dueAtOpen (s : State) : Due where
  reports := 4
  waiting := mapTable (·.queue.length) s.spokes
  train := mapTable SpokeRec.trainDue s.spokes
  settle := mapTable SpokeRec.settleDue s.spokes
  poll := mapTable SpokeRec.pollDue s.spokes
  groups := Vector.replicate 8 false
  step := s.engine.stepDue
  eval := Vector.replicate 32 true
  capture := s.capture.due
  abandon := s.lane.assembly.isSome && !s.lane.fed

/-- What a boundary does to every block from the state at the close of the frame (R1, R10 to R13, R18 to R20, R28, R40,
R83, R95, R107, R145, R155, R156). -/
def State.advance (s : State) : State :=
  let energies : Vector Nat 32 := tabulate s.energyOf
  { s with
    frame := s.frame + 1#16
    fabric := s.latch
    handed := energies
    spokes := mapTable SpokeRec.boundary s.spokes
    meters := tabulate fun i => s.meters[i].boundary s.spokes[i] energies[i]
    engine := s.engine.boundary
    capture := s.capture.boundary
    store := s.store.boundary
    lane := s.lane.nextFrame
    due := s.dueAtOpen }

/-- The watch groups evaluated against the updated meters (R95, R98, R99). -/
def State.evaluateGroups (s : State) : State :=
  { s with
    groups := tabulate fun g => s.groups[g].evaluate (s.load g)
    due := { s.due with groups := tabulate fun g => s.groups[g].turns (s.load g) } }

/-- A boundary opens: what each block does at once, and CLIP for the frame just ended (R18). -/
def State.openBoundary (s : State) : State := s.advance.evaluateGroups.raiseClips s.fabric.saturated

/-- The Fault Qualifier's evaluations (R114), in ascending order of spokes (log 11), but for the spokes whose evaluation a
row stands for: where a kind would qualify by PERSIST or run out a window, the spoke's whole evaluation stays due. -/
def State.evaluateRest (s : State) : State :=
  allSpokes.foldl (fun t i => if t.evaluationHasRow i then t else t.evaluateTurn i) s

/-- A frame boundary: the last one's turns are over, this one opens, the turns named are taken first, then the
evaluations. -/
def State.boundary (before : List Turn) (s : State) : State :=
  (s.closeBoundary.openBoundary.takeTurns before).evaluateRest

/-- Whether the Timebase takes a boundary of its present reference (R2, R3): a marker while LOCKED; the oscillator while
FREE, but not while it waits for the first marker of a management port that is UP. -/
def State.boundaryRuns (s : State) : Bool := s.reference == .locked || !s.mgmtUp

/-- FRAME_BOUNDARY (R1, R2). -/
def State.frameBoundary (before : List Turn) (s : State) : State := if s.boundaryRuns then s.boundary before else s

/-- TIMEBASE_RELOCK (R3): a marker on the management port while FREE, the microseconds since the last boundary given. At
half a frame or more, or after a marker that was not taken, it is the next boundary and the reference is LOCKED. -/
def State.relock (micros : Nat) (before : List Turn) (s : State) : State :=
  if s.reference = .free ∧ s.mgmtUp then
    if 500 ≤ micros ∨ s.markerSkipped then
      { s with reference := .locked, markerSkipped := false }.boundary before
    else { s with markerSkipped := true }
  else s

/-! ## An empty queue (log 4) -/

/-- With no command waiting, the boundary in hand runs out, and one sample period of traffic passes where one arrives. -/
def State.idle (s : State) : State :=
  let t := s.closeBoundary
  match t.arriving with
  | [] => t
  | p :: rest => { t with arriving := rest }.samplePeriod p

/-! ## Spoke link events (R22, R23, R34) -/

/-- A damaged sample group (R23): zero samples for its duration, and one FRAME_ERRORS event. -/
def State.groupDamaged (i : SpokeId) (periods : Nat) (s : State) : State :=
  if s.links[i].locked then (s.mapLink i fun l => { l with damaged := l.damaged + periods }).frameErrors i else s

/-- The oldest waiting request is sent whole (R22); none is sent on an unlocked link. -/
def Link.send (l : Link) : Link :=
  if l.locked then
    match l.requests with
    | q :: rest => { l with requests := rest, sending := some q }
    | [] => l
  else l

/-! ## Rows that are turns -/

/-- The further HELLO REQUEST of a count that reaches a multiple of 10 below 200 (R30). -/
def State.helloRepeat (i : SpokeId) (s : State) : State := if s.spokes[i].elapsed + 1 < 200 then s.trainTurn i else s

/-- The training limit of a count that reaches 200 (R32). -/
def State.limitTurn (i : SpokeId) (s : State) : State := if s.spokes[i].elapsed + 1 < 200 then s else s.trainTurn i

/-- The evaluation at which a kind qualifies by PERSIST (R118): the spoke's whole evaluation, one event (R114). -/
def State.persistTurn (i : SpokeId) (k : FaultKind) (s : State) : State :=
  if s.persistWouldQualify i k then s.evaluateTurn i else s

/-- The evaluation that runs out a kind's COUNT-mode window (R119, R120): the spoke's whole evaluation (R114). -/
def State.windowTurn (i : SpokeId) (k : FaultKind) (s : State) : State :=
  if s.windowWouldEnd i k then s.evaluateTurn i else s

/-! ## Steps -/

/-- FRAME_BOUNDARY -/
def execFrameBoundary (before : List Turn) (s : State) : Host.Outcome State Fault Refusal := .next (s.frameBoundary before)

/-- TIMEBASE_RELOCK -/
def execTimebaseRelock (micros : Nat) (before : List Turn) (s : State) : Host.Outcome State Fault Refusal :=
  .next (s.relock micros before)

/-- SPOKE_LINK_LOCK -/
def execSpokeLinkLock (i : SpokeId) (s : State) : Host.Outcome State Fault Refusal := .next (s.linkLock i)

/-- SPOKE_LINK_LOSS -/
def execSpokeLinkLoss (i : SpokeId) (s : State) : Host.Outcome State Fault Refusal := .next (s.linkLoss i)

/-- SAMPLE_GROUP_DAMAGED -/
def execSampleGroupDamaged (i : SpokeId) (periods : Nat) (s : State) : Host.Outcome State Fault Refusal :=
  .next (s.groupDamaged i periods)

/-- NODE_REQUEST_SEND -/
def execNodeRequestSend (i : SpokeId) (s : State) : Host.Outcome State Fault Refusal := .next (s.mapLink i Link.send)

/-- REPORT_COMPLETE: the bytes of a report arrive, the last of them completing it. -/
def execReportComplete (i : SpokeId) (bytes : List Byte) (s : State) : Host.Outcome State Fault Refusal :=
  .next (bytes.foldl (fun t b => t.reportByte i b) s)

/-- REPORT_LEAD_BYTE -/
def execReportLeadByte (i : SpokeId) (s : State) : Host.Outcome State Fault Refusal := .next (s.reportByte i reportLead)

/-- REPORT_TAKE -/
def execReportTake (s : State) : Host.Outcome State Fault Refusal := .next s.reportTurn

/-- HELLO_REQUEST_REPEAT -/
def execHelloRequestRepeat (i : SpokeId) (s : State) : Host.Outcome State Fault Refusal := .next (s.helloRepeat i)

/-- TRAINING_LIMIT -/
def execTrainingLimit (i : SpokeId) (s : State) : Host.Outcome State Fault Refusal := .next (s.limitTurn i)

/-- SETTLE_END -/
def execSettleEnd (i : SpokeId) (s : State) : Host.Outcome State Fault Refusal := .next (s.settleTurn i)

/-- HEALTH_POLL_DUE -/
def execHealthPollDue (i : SpokeId) (s : State) : Host.Outcome State Fault Refusal := .next (s.pollTurn i)

/-- PERSIST_QUALIFY -/
def execPersistQualify (i : SpokeId) (k : FaultKind) (s : State) : Host.Outcome State Fault Refusal :=
  .next (s.persistTurn i k)

/-- QUALIFIER_WINDOW_END -/
def execQualifierWindowEnd (i : SpokeId) (k : FaultKind) (s : State) : Host.Outcome State Fault Refusal :=
  .next (s.windowTurn i k)

end Sys2Proof.Machine
end

