-- ==== Sys2Proof/Machine/Dispatch.lean ====
section
/-! DEFINITION. The meaning of every step of the hub: one arm for each row of spec/opcode_table.json. -/

namespace Sys2Proof.Machine

/-- The effect of a step on everything but the queue. -/
def exec (i : Instr) (s : State) : Host.Outcome State Fault Refusal :=
  match i with
  | .powerOnReset strap => Sys2Proof.Machine.execPowerOnReset strap s
  | .frameBoundary before => Sys2Proof.Machine.execFrameBoundary before s
  | .timebaseRelock micros before => Sys2Proof.Machine.execTimebaseRelock micros before s
  | .carrierPortLock port => Sys2Proof.Machine.execCarrierPortLock port s
  | .carrierPortLoss port => Sys2Proof.Machine.execCarrierPortLoss port s
  | .spokeLinkLock spoke => Sys2Proof.Machine.execSpokeLinkLock spoke s
  | .spokeLinkLoss spoke => Sys2Proof.Machine.execSpokeLinkLoss spoke s
  | .sampleGroupDamaged spoke periods => Sys2Proof.Machine.execSampleGroupDamaged spoke periods s
  | .nodeRequestSend spoke => Sys2Proof.Machine.execNodeRequestSend spoke s
  | .reportComplete spoke bytes => Sys2Proof.Machine.execReportComplete spoke bytes s
  | .reportTake => Sys2Proof.Machine.execReportTake s
  | .helloRequestRepeat spoke => Sys2Proof.Machine.execHelloRequestRepeat spoke s
  | .trainingLimit spoke => Sys2Proof.Machine.execTrainingLimit spoke s
  | .settleEnd spoke => Sys2Proof.Machine.execSettleEnd spoke s
  | .healthPollDue spoke => Sys2Proof.Machine.execHealthPollDue spoke s
  | .crowdedEntry group => Sys2Proof.Machine.execCrowdedEntry group s
  | .groupCalm group => Sys2Proof.Machine.execGroupCalm group s
  | .cutoverStep => Sys2Proof.Machine.execCutoverStep s
  | .persistQualify spoke kind => Sys2Proof.Machine.execPersistQualify spoke kind s
  | .qualifierWindowEnd spoke kind => Sys2Proof.Machine.execQualifierWindowEnd spoke kind s
  | .captureCollectionEnd => Sys2Proof.Machine.execCaptureCollectionEnd s
  | .captureCollectionStart => Sys2Proof.Machine.execCaptureCollectionStart s
  | .captureNoticeEnqueue => Sys2Proof.Machine.execCaptureNoticeEnqueue s
  | .alarmPresentation => Sys2Proof.Machine.execAlarmPresentation s
  | .startupReadEnd => Sys2Proof.Machine.execStartupReadEnd s
  | .storeEraseEnd readsBack => Sys2Proof.Machine.execStoreEraseEnd readsBack s
  | .storeWriteEnd readsBack => Sys2Proof.Machine.execStoreWriteEnd readsBack s
  | .storeLockEnd => Sys2Proof.Machine.execStoreLockEnd s
  | .commandComplete bytes => Sys2Proof.Machine.execCommandComplete bytes s
  | .assemblyAbandon => Sys2Proof.Machine.execAssemblyAbandon s
  | .commandUnknown tag code => Sys2Proof.Machine.execCommandUnknown tag code s
  | .commandMalformed tag code => Sys2Proof.Machine.execCommandMalformed tag code s
  | .commandResponseTaken => Sys2Proof.Machine.execCommandResponseTaken s
  | .resyncResponseTaken => Sys2Proof.Machine.execResyncResponseTaken s
  | .messageLeaves => Sys2Proof.Machine.execMessageLeaves s
  | .hubResetEffect => Sys2Proof.Machine.execHubResetEffect s
  | .feedSet tag feed state operator band level => Sys2Proof.Machine.execFeedSet tag feed state operator band level s
  | .feedRead tag feed => Sys2Proof.Machine.execFeedRead tag feed s
  | .spokeIsolate tag spoke => Sys2Proof.Machine.execSpokeIsolate tag spoke s
  | .spokeRestore tag spoke => Sys2Proof.Machine.execSpokeRestore tag spoke s
  | .spokeQuiet tag spoke => Sys2Proof.Machine.execSpokeQuiet tag spoke s
  | .spokeWake tag spoke => Sys2Proof.Machine.execSpokeWake tag spoke s
  | .spokeRetrain tag spoke => Sys2Proof.Machine.execSpokeRetrain tag spoke s
  | .spokeRearm tag spoke => Sys2Proof.Machine.execSpokeRearm tag spoke s
  | .spokeRead tag spoke => Sys2Proof.Machine.execSpokeRead tag spoke s
  | .pollSet tag period => Sys2Proof.Machine.execPollSet tag period s
  | .planOpen tag slot => Sys2Proof.Machine.execPlanOpen tag slot s
  | .planEdit tag slot => Sys2Proof.Machine.execPlanEdit tag slot s
  | .planCell tag slot entries => Sys2Proof.Machine.execPlanCell tag slot entries s
  | .planExpect tag slot pairs => Sys2Proof.Machine.execPlanExpect tag slot pairs s
  | .planClose tag slot => Sys2Proof.Machine.execPlanClose tag slot s
  | .planDrop tag slot => Sys2Proof.Machine.execPlanDrop tag slot s
  | .planRead tag slot spoke => Sys2Proof.Machine.execPlanRead tag slot spoke s
  | .trimPoint tag slot spoke pos => Sys2Proof.Machine.execTrimPoint tag slot spoke pos s
  | .trim tag values => Sys2Proof.Machine.execTrim tag values s
  | .bankBind tag bank slot => Sys2Proof.Machine.execBankBind tag bank slot s
  | .bankRelease tag bank => Sys2Proof.Machine.execBankRelease tag bank s
  | .sweepOrder tag order => Sys2Proof.Machine.execSweepOrder tag order s
  | .cutover tag target interval settle fold => Sys2Proof.Machine.execCutover tag target interval settle fold s
  | .halt tag => Sys2Proof.Machine.execHalt tag s
  | .fold tag => Sys2Proof.Machine.execFold tag s
  | .cutoverRead tag => Sys2Proof.Machine.execCutoverRead tag s
  | .watchSet tag group members high low dwell reliefPresent target interval settle => Sys2Proof.Machine.execWatchSet tag group members high low dwell reliefPresent target interval settle s
  | .watchOff tag group => Sys2Proof.Machine.execWatchOff tag group s
  | .watchRead tag group => Sys2Proof.Machine.execWatchRead tag group s
  | .meterRead tag spokes => Sys2Proof.Machine.execMeterRead tag spokes s
  | .capture tag spoke pos kind mode interval => Sys2Proof.Machine.execCapture tag spoke pos kind mode interval s
  | .captureStop tag => Sys2Proof.Machine.execCaptureStop tag s
  | .qualify tag kind mode count window unit action level => Sys2Proof.Machine.execQualify tag kind mode count window unit action level s
  | .qualifyRead tag kind spoke => Sys2Proof.Machine.execQualifyRead tag kind spoke s
  | .alarmEnable tag enable disable => Sys2Proof.Machine.execAlarmEnable tag enable disable s
  | .alarmMask tag mask unmask => Sys2Proof.Machine.execAlarmMask tag mask unmask s
  | .alarmTrack tag setting => Sys2Proof.Machine.execAlarmTrack tag setting s
  | .alarmDone tag channel => Sys2Proof.Machine.execAlarmDone tag channel s
  | .alarmRead tag channel index => Sys2Proof.Machine.execAlarmRead tag channel index s
  | .storeRead tag record => Sys2Proof.Machine.execStoreRead tag record s
  | .storeErase tag page => Sys2Proof.Machine.execStoreErase tag page s
  | .storeWrite tag record c0 c1 c2 c3 => Sys2Proof.Machine.execStoreWrite tag record c0 c1 c2 c3 s
  | .storeLock tag => Sys2Proof.Machine.execStoreLock tag s
  | .resync tag => Sys2Proof.Machine.execResync tag s
  | .hubStatus tag => Sys2Proof.Machine.execHubStatus tag s
  | .hubReset tag => Sys2Proof.Machine.execHubReset tag s
  | .inboundByte byte => Sys2Proof.Machine.execInboundByte byte s
  | .reportLeadByte spoke => Sys2Proof.Machine.execReportLeadByte spoke s

end Sys2Proof.Machine
end

