-- ==== Sys2Proof/Safety.lean ====
section
/-! DEFINITION. What a state of the hub in good order is, in the terms the statements use: the invariants that the manual
states of its blocks. -/

namespace Sys2Proof.Machine

/-- A message that is no notice, where there is one. -/
def noNotice (m : Option Message) : Bool := m.all fun m => !m.isNotice

/-- What an assembly in progress at the Intake holds (R156): its lead byte first, then a length from 6 to 64, and fewer
bytes than that length. -/
def assemblyOpen : Option (List Byte) → Bool
  | none => true
  | some [] => false
  | some [lead] => lead == 0xC3#8
  | some (lead :: len :: rest) =>
    lead == 0xC3#8 && decide (6 ≤ len.toNat) && decide (len.toNat ≤ 64) && decide (rest.length + 2 < len.toNat)

/-- The bounds of the Management Lane (R156, R158, R162): at most two commands queued, at most eight messages of which at most
six are notices, no notice in the places of the two responses, and an assembly in progress that is not yet whole. -/
def LaneBounded (s : State) : Prop :=
  s.lane.intake.length ≤ 2 ∧ s.lane.outbound.length ≤ 8 ∧
    (s.lane.outbound.filter Message.isNotice).length ≤ 6 ∧ noNotice s.lane.holder ∧ noNotice s.lane.held ∧
    assemblyOpen s.lane.assembly

/-- How state, hold, settle count, known class and link lock go together (section 2.3, R25). -/
def SpokeRec.coherent (locked : Bool) (r : SpokeRec) : Bool :=
  match r.state with
  | .dark => r.settle == 0 && r.knownClass.isNone && !locked
  | .training => r.settle == 0 && r.knownClass.isNone && locked
  | .live => r.hold == .none && r.knownClass.isSome && locked
  | .quiet => r.hold == .quiet && r.settle == 0 && r.knownClass.isSome && locked
  | .isolated => r.hold.isolates && r.settle == 0 && locked

/-- Every spoke's record is coherent. -/
def SpokesCoherent (s : State) : Prop := ∀ i : SpokeId, s.spokes[i].coherent s.links[i].locked = true

/-- A plan slot bound to either bank is READY (R51). -/
def BoundReady (s : State) : Prop := ∀ k : SlotId, s.engine.holds k = true → s.slots[k].state = .ready

/-- What the staging record holds at each part of the pointer (R68). -/
def stagedFor (p : Option Pointer) (st : Staging) : Bool :=
  match p.map Pointer.part with
  | none => st.down.isNone && st.up.isNone
  | some .dl => st.down.isNone && st.up.isNone
  | some .ul => st.down.isSome && st.up.isNone
  | some .delay => st.down.isSome && st.up.isSome

/-- The staging record agrees with the pointer (R68). -/
def PointerStaged (s : State) : Prop := stagedFor s.pointer s.staging = true

/-- What R129 says of every channel, and R138 of tracking: a disabled channel has an empty list, no list holds one source
twice, and with tracking off no channel is in service. -/
def ChannelsOrdered (s : State) : Prop :=
  ∀ c : ChannelId, (s.channels[c].enabled = false → s.channels[c].list = []) ∧
    (s.channels[c].list.map (·.source)).Nodup ∧ (s.tracking = false → s.channels[c].inService = false)

/-- The Cutover Engine's items go together (R75, R85 to R87): the sweep order holds each spoke once; IDLE has no current
step; HALTING has one that is not complete; outside IDLE a cutover has been accepted. -/
def EngineCoherent (s : State) : Prop :=
  s.engine.order.toList.Nodup ∧ (s.engine.state = .idle → s.engine.current = none) ∧
    (s.engine.state = .halting → s.engine.stepInHand = true) ∧ (s.engine.state ≠ .idle → s.engine.params.isSome)

/-- A management command is executed and answered: the response, with the command's tag and code, is made on a state. -/
def Answers (i : Instr) (s : State) (st : Status) (body : List Byte) (u : State) : Prop :=
  exec i s = .next (u.deliver (.response i.tag i.code st body))

/-- A qualification of a kind at a spoke with a detail, from one state to another (R122, R123): the kind's channel takes
the raise, an action ISOLATE isolates a spoke that has no isolate hold and raises ISOLATION with reason FAULT and the
kind on channel 13 (R26), and no other spoke's record changes. -/
def Qualified (s t : State) (i : SpokeId) (k : FaultKind) (d : Detail) : Prop :=
  (s.channels[kindChannel k].enabled = true →
    ∃ e ∈ t.channels[kindChannel k].list, e.source = some i.val ∧ e.detail = d) ∧
  ((s.settingsOf k).isolate = false ∨ s.spokes[i].hold.isolates = true → t.spokes = s.spokes) ∧
  ((s.settingsOf k).isolate = true → s.spokes[i].hold.isolates = false →
    t.spokes = update s.spokes i (fun r => { r with
      hold := .isolate (.fault k), settle := 0
      state := if r.state = .live ∨ r.state = .quiet then .isolated else r.state }) ∧
    (s.channels[(13 : ChannelId)].enabled = true → ∃ e ∈ t.channels[(13 : ChannelId)].list,
      e.source = some i.val ∧ e.detail = .isolation (.fault k)))

/-- Channel 1 once a spoke has entered DARK (R124): each of its records that was MEASURING, in the order of the kinds (log
11), has raised DURATION with its kind, its length in units of 1, 4, 16 or 64 frames rounded down, its unit and cut short
yes. -/
def durationCutShort (s : State) (i : SpokeId) : Channel :=
  let raised := ([.frameErrors, .uplinkOverload, .nodeSilent, .nodeFault, .opticalLow] : List FaultKind).foldl
    (fun (u : State) k =>
      if (s.qual i k).state = .measuring then
        u.raise 1 (some i.val)
          (.duration k ((s.qual i k).measured / 4 ^ (s.settingsOf k).unit.val) (s.settingsOf k).unit true)
      else u) s
  raised.channels[(1 : ChannelId)]

/-- A slot is bound to a bank (R77). -/
def Bound (s : State) (k : SlotId) : Prop := s.engine.bankA = some k ∨ s.engine.bankB = some k

/-- A plan carries a feed at a spoke (R52). -/
def Carries (p : Plan) (i : SpokeId) (f : FeedId) : Prop := ∃ (k : CellPos) (c : Cell), p[i].cells[k] = some c ∧ c.feed = f

/-- The working copy permits a feed's record (R8, R64): its operator's record is present and not withdrawing, with the
feed's port and the record's band class among its sets. -/
def Permits (s : State) (f : FeedId) (r : FeedRec) : Prop :=
  ∃ o, s.store.operator r.operator = some o ∧ o.ports.getLsbD (f.val / 4) = true ∧ o.bands.getLsbD r.band.val = true

/-- The rank of a check (table of R63). -/
def checkRank : FailReason → Nat
  | .feedUnused => 1
  | .feedTwice => 2
  | .noClass => 3
  | .classAbsent => 4
  | .capacity => 5
  | .band => 6
  | .operator => 7
  | .level => 8
  | .fanout => 9

/-- The checks that admission makes on a cell (R64). -/
def CellFails (s : State) (e : Entry) (k : CellPos) (c : Cell) : FailReason → Prop
  | .feedUnused => s.feeds[c.feed].state = .unused
  | .feedTwice => ∃ (j : CellPos) (d : Cell), j < k ∧ e.cells[j] = some d ∧ d.feed = c.feed
  | .band => ∃ n r, e.expect = some n ∧ s.store.nodeClass n = some r ∧ r.bands.getLsbD s.feeds[c.feed].band.val = false
  | .operator => ¬Permits s c.feed s.feeds[c.feed]
  | .level => ∃ n r, e.expect = some n ∧ s.store.nodeClass n = some r ∧
      (r.level : Int) < (s.feeds[c.feed].level.val : Int) - c.down.val
  | .noClass | .classAbsent | .capacity | .fanout => False

/-- The checks that admission makes on a spoke as a whole (R65). -/
def SpokeFails (s : State) (e : Entry) : FailReason → Prop
  | .noClass => e.expect = none ∧ ∃ k : CellPos, e.cells[k] ≠ none
  | .classAbsent => ∃ n, e.expect = some n ∧ s.store.nodeClass n = none
  | .capacity => ∃ n r, e.expect = some n ∧ s.store.nodeClass n = some r ∧
      r.capacity < ((List.finRange 4).filter fun k : CellPos => (e.cells[k]).isSome).length
  | .feedUnused | .feedTwice | .band | .operator | .level | .fanout => False

/-- A plan fails the check of a failure record's reason at its place (R63 to R66). The entitlement part, `full` false,
leaves out FEED_TWICE and NO_CLASS (R67). FANOUT fails at the spoke whose count first exceeds the operator's maximum:
as many spokes as the maximum carry the feed before it. -/
def PlanFails (s : State) (full : Bool) (p : Plan) (f : Failure) : Prop :=
  (full = false → f.reason ≠ .feedTwice ∧ f.reason ≠ .noClass) ∧
  ((∃ k c, f.pos = some k ∧ p[f.spoke].cells[k] = some c ∧ CellFails s p[f.spoke] k c f.reason) ∨
    (f.pos = none ∧ SpokeFails s p[f.spoke] f.reason) ∨
    (f.reason = .fanout ∧ ∃ k c o, f.pos = some k ∧ p[f.spoke].cells[k] = some c ∧
      (∀ (j : CellPos) (d : Cell), j < k → p[f.spoke].cells[j] = some d → d.feed ≠ c.feed) ∧
      s.store.operator s.feeds[c.feed].operator = some o ∧
      ∃ before : List SpokeId, before.length = o.fanout ∧ before.Nodup ∧
        ∀ i : SpokeId, i ∈ before ↔ i < f.spoke ∧ Carries p i c.feed))

/-- The feed of the cell that a failure names. -/
def Failure.feed (p : Plan) (f : Failure) : Option FeedId := f.pos.bind fun k => (p[f.spoke].cells[k]).map (·.feed)

/-- The place of a failure in the walk of R63 and R66: by spoke, then by check, then by position; FANOUT after every spoke,
by feed. -/
def Failure.order (p : Plan) (f : Failure) : List Nat :=
  if f.reason = .fanout then [32, ((f.feed p).map (·.val)).getD 0]
  else [f.spoke.val, checkRank f.reason, (f.pos.map (·.val)).getD 0]

/-- The second and third part of R107, from the state in which a collection in progress has ended: the count of a continuous
request is lowered; a single request begins, with the downlink level of the frame's carry set (R108) and COMPLETE as long
as its spoke is LIVE (R109), and sets the count of a continuous one of its target; a RAW single request is cleared instead
while the store lock is set; then, and without a single request, a continuous one whose count is 0 begins, or is cleared
where it is RAW and the lock is set. -/
def CollectionDecided (s t : State) : Prop :=
  let level (x : Target) : Option Int := match s.fabric.carry[x.spoke][x.pos] with
    | some c => if s.fabric.feedState[c.feed] = .active then some ((s.feeds[c.feed].level.val : Int) - c.down.val) else none
    | none => none
  let fresh (x : Target) (b : Bool) : Collection :=
    ⟨x, s.frame, b, s.spokes[x.spoke].state == .live, level x, 0, 0, 0, []⟩
  let barred (x : Target) : Prop := x.kind = .raw ∧ s.store.locked = true
  let lowered : Option Continuous := s.capture.continuous.map fun q => { q with next := q.next - 1 }
  t.capture.buffer = s.capture.buffer ∧ t.capture.missed = s.capture.missed ∧
  (∀ x, s.capture.single = some x → ¬barred x → t.capture.single = some x ∧
    t.capture.collection = some (fresh x ((lowered.map (·.target)) == some x)) ∧
    t.capture.continuous = lowered.map fun q => if q.target = x then { q with next := q.interval } else q) ∧
  (s.capture.single = none ∨ (∃ x, s.capture.single = some x ∧ barred x) → t.capture.single = none ∧
    ((∀ q, lowered = some q → q.next ≠ 0) →
      t.capture.collection = s.capture.collection ∧ t.capture.continuous = lowered) ∧
    (∀ q, lowered = some q → q.next = 0 → ¬barred q.target →
      t.capture.collection = some (fresh q.target true) ∧ t.capture.continuous = some { q with next := q.interval }) ∧
    (∀ q, lowered = some q → q.next = 0 → barred q.target →
      t.capture.collection = s.capture.collection ∧ t.capture.continuous = none))

/-- The bytes of a whole message (R156, R167): the lead byte, a length from 6 to 64, and as many bytes as the length says. -/
def WholeMessage (bytes : List Byte) : Prop :=
  bytes[0]? = some 0xC3#8 ∧ 6 ≤ bytes.length ∧ bytes.length ≤ 64 ∧ bytes[1]? = some (BitVec.ofNat 8 bytes.length)

/-- A message that is a completed command (R156, R168): its check passes and its kind is COMMAND. -/
def IsCommand (bytes : List Byte) : Prop :=
  bytes.drop (bytes.length - 2) = halfBytes (crc (bytes.take (bytes.length - 2))) ∧
    (bytes[2]?).map (·.extractLsb' 6 2) = some 1#2

/-- What a message does as it completes (R156 to R159), from the state in which its bytes have arrived to the next: one that
is no command is discarded unanswered; a RESYNC is taken at the Intake; every other command, marked or not, is placed at
the tail of the intake queue, or is discarded, sets the latch and raises INTAKE_OVERRUN with its tag, or is discarded
and counted. -/
def MessageTaken (bytes : List Byte) (u t : State) : Prop :=
  (¬IsCommand bytes → t = u) ∧
  (IsCommand bytes → ∃ i, commandIn bytes = some i ∧
    (∀ tag, i = .resync tag → t = { u with lane := u.lane.resync tag }) ∧
    ((∀ tag, i ≠ .resync tag) →
      (u.lane.overrun = false → u.lane.intake.length < 2 →
        t = { u with lane := { u.lane with intake := u.lane.intake ++ [i] } }) ∧
      (u.lane.overrun = false → 2 ≤ u.lane.intake.length →
        t = { u with
          lane := { u.lane with overrun := true, firstTag := some i.tag, discards := 1 }
          channels := (u.raise chIntakeOverrun none (.discardedTag i.tag)).channels }) ∧
      (u.lane.overrun = true → t = { u with lane := { u.lane with discards := min 255 (u.lane.discards + 1) } })))

/-- What a report does as it completes (R34, R35), from one state to the next: the assembly is over, and the report is placed
at the tail of the queue where the latch is clear and fewer than two are queued; it is discarded where the latch is set;
else it is discarded, the latch is set and REPORT_OVERRUN is raised with its kind, UNREADABLE if it is damaged. -/
def ReportEnters (i : SpokeId) (rep : Report) (s t : State) : Prop :=
  (s.spokes[i].overrun = false → s.spokes[i].queue.length < 2 →
    t = s.mapSpoke i fun r => { r with assembly := none, queue := r.queue ++ [rep] }) ∧
  (s.spokes[i].overrun = true → t = s.mapSpoke i fun r => { r with assembly := none }) ∧
  (s.spokes[i].overrun = false → 2 ≤ s.spokes[i].queue.length →
    let kind := if rep.isDamaged then .unreadable else rep.kind
    t = (s.mapSpoke i fun r => { r with assembly := none, overrun := true, firstDiscarded := some kind }).raise
      chReportOverrun (some i.val) (.overrun kind))

/-- A raise on channel 0 with one detail for each feed of a set, in ascending feed order, and for no other (R6, R18). -/
def feedsRaised (d : Detail) (which : FeedId → Bool) (s : State) : State :=
  (allFeeds.filter which).foldl (fun u f => u.raise 0 (some f.val) d) s

/-- The ACTIVE feeds of a port (R6). -/
def State.activeOf (s : State) (p : PortId) (f : FeedId) : Bool := portOf f == p && s.feeds[f].state == .active

/-- A channel's entries of every source but the feeds of a set are as before, in their order (R130). -/
def OthersKept (which : FeedId → Bool) (before after : Channel) : Prop :=
  ∀ x : Option Nat, (∀ f : FeedId, which f = true → x ≠ some f.val) →
    after.list.filter (fun e => e.source == x) = before.list.filter (fun e => e.source == x)

/-- Three bytes of a packed field, those of group `n`, hold a run of 24 bits, most significant first (R171, R173). -/
def PackedAt (packed : List Byte) (n : Nat) (bits : BitVec 24) : Prop :=
  ∃ a b c : Byte, (packed.drop (3 * n)).take 3 = [a, b, c] ∧ (a ++ b ++ c : BitVec 24) = bits

/-- A state with no command waiting in the model's queue, for statements about one step. -/
def State.queued (c : Instr) (rest : List Instr) (s : State) : State := { s with pending := c :: rest }

end Sys2Proof.Machine
end

