-- ==== Sys2Proof/Certificates/Slice0/Obligations.lean ====
section
/-! DEFINITION. The statements about the hub, from the rules of the manual. -/

open Sys2Proof Sys2Proof.Machine

/-! ## The machine as a whole -/

/-- A step with a command at the front of the queue is that command on the queue's rest. The order of the queue is the
order of the events (log 1), the model's choice. -/
def Obligations.StepExecutesFront : Prop :=
  ∀ (c : Instr) (rest : List Instr) (s : State), step (s.queued c rest) = exec c { s with pending := rest }

/-- With an empty queue, with no turn of the boundary left and no sample period arriving, nothing changes (log 4). -/
def Sys2Proof.Claims.EmptyQueueIdles : Prop :=
  ∀ s : State, s.pending = [] → s.turnsLeft = false → s.arriving = [] → step s = .next s

/-- With an empty queue and no turn left, a sample period that arrives passes through the Fabric (log 4, log 5). -/
def Sys2Proof.Claims.EmptyQueuePassesSamples : Prop :=
  ∀ (s : State) (p : SamplePeriod) (rest : List SamplePeriod), s.pending = [] → s.turnsLeft = false →
    s.arriving = p :: rest → step s = .next ({ s with arriving := rest }.samplePeriod p)

/-- With an empty queue and turns of the boundary left, they are taken in the model's order (log 2), with the reports that
stood in the queues as it opened (R36) and the store operation's end, whose read-back is then free (log 6); then a
sample period passes where one arrives. -/
def Sys2Proof.Claims.EmptyQueueEndsBoundary : Prop :=
  ∀ s : State, s.pending = [] → s.turnsLeft = true →
    let late := Nat.repeat (fun u : State => u.takeFrom u.nextWaiting) 4 s
    let order : List Turn := allSpokes.map .train ++ [.cutover] ++ allSpokes.map .settleEnd ++ allSpokes.map .poll ++
      (List.finRange 8).map .group ++ allSpokes.map .evaluate ++ [.captureEnd, .captureStart]
    let past := ({ late with due := { late.due with reports := 0 } }.takeTurns order).freeStoreEnd
    let t : State := { past with due := .empty, lane := { past.lane with
      assembly := if past.due.abandon then none else past.lane.assembly } }
    (s.arriving = [] → step s = .next t) ∧
    (∀ p rest, s.arriving = p :: rest → step s = .next ({ t with arriving := rest }.samplePeriod p)) ∧
    (∀ u : State, (u.store.ends = false → u.freeStoreEnd = u) ∧
      (u.store.ends = true → u.store.engine = .reading ∨ u.store.engine = .locking →
        u.freeStoreEnd = u.storeTurn true) ∧
      (u.store.ends = true → (∃ g, u.store.engine = .erasing g) ∨ (∃ r c, u.store.engine = .writing r c) →
        u.freeStoreEnd = { u with freeCount := u.freeCount + 1 }.storeTurn (Config.readBack u.freeCount)))

/-- The delay lines and the downlink in a sample period (R13 to R15): a position with a cell writes its feed's sample, zero
unless the feed is latched ACTIVE with its port UP, and sends the tap at its trim, attenuated, after a stop shorter than
the trim too (log 31); the uplink line takes the sample received, zero with no cell in the sum set, on an unlocked link
or in a damaged group. -/
def Sys2Proof.Claims.LinesTakeSamples : Prop :=
  ∀ (s : State) (p : SamplePeriod) (i : SpokeId) (k : CellPos),
    let t := (s.samplePeriod p).fabric
    let runs (f : FeedId) : Prop := s.fabric.feedState[f] = .active ∧ s.ports[portOf f] = true
    (∀ c, s.fabric.carry[i][k] = some c →
      (runs c.feed → tap 0 t.downLines[i][k] = (p.feeds.lookup c.feed).getD ⟨0, 0⟩ ∧
        t.spokeOut[i][k] = attenuate c.down (tap c.trim t.downLines[i][k])) ∧
      (¬runs c.feed → tap 0 t.downLines[i][k] = ⟨0, 0⟩ ∧ t.spokeOut[i][k] = ⟨0, 0⟩) ∧
      ∀ m n : Fin 256, n.val = m.val + 1 → tap n t.downLines[i][k] = tap m s.fabric.downLines[i][k]) ∧
    (s.fabric.carry[i][k] = none → t.spokeOut[i][k] = ⟨0, 0⟩) ∧
    (s.fabric.sum[i][k] ≠ none → tap 0 t.upLines[i][k] = s.received p i k) ∧
    (s.fabric.sum[i][k] = none → tap 0 t.upLines[i][k] = ⟨0, 0⟩) ∧
    (∀ m n : Fin 256, n.val = m.val + 1 → tap n t.upLines[i][k] = tap m s.fabric.upLines[i][k]) ∧
    (s.links[i].locked = true → s.links[i].damaged = 0 → s.received p i k = (p.spokes.lookup (i, k)).getD ⟨0, 0⟩) ∧
    (s.links[i].locked = false ∨ 0 < s.links[i].damaged → s.received p i k = ⟨0, 0⟩)

/-- Attenuation by a code (R14): ten raised to minus the code divided by 40, the product rounded to the nearest integer and
halves away from zero, in integers. -/
def Sys2Proof.Claims.AttenuationRounds : Prop :=
  ∀ (a : Fin 64) (x : Sample), attenuate a x = ⟨attenuateComponent a x.i, attenuateComponent a x.q⟩ ∧
    ∀ z : Int, z.natAbs ≤ 32767 →
      let m := (attenuateComponent a z).natAbs
      (m ≠ 0 → (2 * m - 1) ^ 40 * 10 ^ a.val ≤ (2 * z.natAbs) ^ 40) ∧
      (2 * z.natAbs) ^ 40 < (2 * m + 1) ^ 40 * 10 ^ a.val ∧
      (0 ≤ z → 0 ≤ attenuateComponent a z) ∧ (z ≤ 0 → attenuateComponent a z ≤ 0)

/-- The uplink sums and the outbound slots in a sample period (R15 to R17): the exact sum of the attenuated contributions of
the cells naming the feed, limited to full scale, in the slot of a feed latched ACTIVE with its port UP; a limited
sum is marked for CLIP, port UP or DOWN. -/
def Sys2Proof.Claims.SumsSaturate : Prop :=
  ∀ (s : State) (p : SamplePeriod) (f : FeedId),
    let t := (s.samplePeriod p).fabric
    let parts : List Sample := allSpokes.flatMap fun i => allPositions.map fun k =>
      match s.fabric.sum[i][k] with
      | some c => if c.feed = f then attenuate c.up (tap c.trim t.upLines[i][k]) else ⟨0, 0⟩
      | none => ⟨0, 0⟩
    let x := (parts.map (·.i)).sum
    let y := (parts.map (·.q)).sum
    (s.fabric.feedState[f] = .active → s.ports[portOf f] = true →
      t.feedOut[f] = ⟨max (-32767) (min 32767 x), max (-32767) (min 32767 y)⟩) ∧
    (s.fabric.feedState[f] ≠ .active ∨ s.ports[portOf f] = false → t.feedOut[f] = ⟨0, 0⟩) ∧
    (t.saturated[f] = true ↔ s.fabric.saturated[f] = true ∨
      (s.fabric.feedState[f] = .active ∧ (x < -32767 ∨ 32767 < x ∨ y < -32767 ∨ 32767 < y)))

/-- The energy (R19): the squares of what the four positions receive are added in each sample period, and the mean is scaled
so that full scale gives 65535; 0 for a spoke not locked at both boundaries. A frame's samples are those that arrived
in it (log 5). Nothing else changes but a collection (R108) and the damaged groups' ends. -/
def Sys2Proof.Claims.EnergyMeasured : Prop :=
  ∀ (s : State) (p : SamplePeriod), let t := s.samplePeriod p
    t = { s with fabric := t.fabric, capture := t.capture, links := t.links } ∧
    t.fabric.carry = s.fabric.carry ∧ t.fabric.sum = s.fabric.sum ∧ t.fabric.feedState = s.fabric.feedState ∧
    t.fabric.lockedAtOpen = s.fabric.lockedAtOpen ∧ t.fabric.periods = s.fabric.periods + 1 ∧
    (∀ i : SpokeId, t.links[i] = { s.links[i] with damaged := s.links[i].damaged - 1 } ∧
      t.fabric.energySum[i] = s.fabric.energySum[i] + (allPositions.map fun k =>
        (s.received p i k).i.natAbs ^ 2 + (s.received p i k).q.natAbs ^ 2).sum) ∧
    (∀ i : SpokeId,
      (s.fabric.lockedAtOpen[i] = true → s.links[i].locked = true → s.energyOf i =
        min 65535 (s.fabric.energySum[i] * 65535 / (4 * s.fabric.periods * (2 * 32767 ^ 2)))) ∧
      (s.fabric.lockedAtOpen[i] = false ∨ s.links[i].locked = false → s.energyOf i = 0))

/-- No command and no event stops the hub. That an event off its occasion changes nothing is the model's choice (log
1). -/
def Obligations.EveryStepAnswersNext : Prop := ∀ (i : Instr) (s : State), ∃ t, exec i s = .next t

/-- The values that the manual states for reset, of every block: Timebase and ports, feed table, Fabric with its sets and
lines, links and spoke records, plan slots, pointer and staging, engine, meters and groups, Capture Unit, qualifier
settings and records, channels, store, and the Management Lane. -/
def Obligations.ResetValues : Prop :=
  let z := State.reset
  z.frame = 0 ∧ z.reference = .free ∧ (∀ p : PortId, z.ports[p] = false) ∧
  (∀ f : FeedId, z.feeds[f] = ⟨.unused, 0, 0, 0⟩ ∧ z.fabric.feedState[f] = .unused ∧ z.fabric.feedOut[f] = ⟨0, 0⟩ ∧
    z.fabric.saturated[f] = false) ∧
  (∀ (i : SpokeId) (k : CellPos), z.fabric.carry[i][k] = none ∧ z.fabric.sum[i][k] = none ∧
    z.fabric.spokeOut[i][k] = ⟨0, 0⟩ ∧
    ∀ n : Fin 256, tap n z.fabric.downLines[i][k] = ⟨0, 0⟩ ∧ tap n z.fabric.upLines[i][k] = ⟨0, 0⟩) ∧
  (∀ i : SpokeId, z.links[i] = ⟨false, [], none, 0⟩ ∧ z.meters[i] = ⟨0, true⟩ ∧ z.engine.order[i] = i ∧
    z.spokes[i] = ⟨.dark, .none, none, 0, 0, 0, false, 0, 0, none, none, none, [], none, false, none⟩ ∧
    ∀ k : FaultKind, z.qual i k = ⟨.idle, false, 0, 0, 0, 0⟩) ∧
  z.restoreSettle = 8 ∧ z.pollPeriod = 100 ∧ z.takerPos = 31 ∧
  (∀ k : SlotId, z.slots[k].state = .empty ∧ z.slots[k].failure = none ∧
    ∀ (i : SpokeId) (c : CellPos), z.slots[k].plan[i].expect = none ∧ z.slots[k].plan[i].cells[c] = none) ∧
  z.pointer = none ∧ z.staging = ⟨none, none⟩ ∧
  z.engine.state = .idle ∧ z.engine.line = 0 ∧ z.engine.bankA = none ∧ z.engine.bankB = none ∧
  z.engine.params = none ∧ z.engine.current = none ∧
  (∀ g : GroupId, z.groups[g] = ⟨0, 0, 0, 1, none, .off, 0, .none⟩) ∧
  z.capture = ⟨none, none, none, none, 0⟩ ∧
  z.settingsOf .frameErrors = ⟨.count, 8, 16, 1, false, none⟩ ∧
  z.settingsOf .uplinkOverload = ⟨.persist, 5, 1, 1, false, some 60000⟩ ∧
  z.settingsOf .nodeSilent = ⟨.immediate, 1, 1, 0, false, none⟩ ∧
  z.settingsOf .nodeFault = ⟨.immediate, 1, 1, 0, true, none⟩ ∧
  z.settingsOf .opticalLow = ⟨.persist, 3, 1, 3, false, some (-180)⟩ ∧
  (∀ c : ChannelId, z.channels[c] = ⟨true, true, false, []⟩) ∧ z.tracking = true ∧
  z.store.engine = .reading ∧ z.store.left = 5 ∧ (∀ r : RecordId, z.store.working[r] = none) ∧
  (∀ p : PageId, z.store.withdrawing[p] = false) ∧
  z.lane.assembly = none ∧ z.lane.intake = [] ∧ z.lane.overrun = false ∧ z.lane.firstTag = none ∧ z.lane.discards = 0 ∧
  z.lane.holder = none ∧ z.lane.held = none ∧ z.lane.resetArmed = false ∧ z.lane.outbound = [] ∧ z.lane.turn = .alarm

/-- The state after reset satisfies every invariant below. -/
def Obligations.ResetInGoodOrder : Prop :=
  LaneBounded State.reset ∧ SpokesCoherent State.reset ∧ BoundReady State.reset ∧ PointerStaged State.reset ∧
    ChannelsOrdered State.reset ∧ EngineCoherent State.reset

/-- The message of a management command, read back by the Intake, is the command with every operand, or with its mark. That
the row of a mark brings the shortest such message is the model's choice (log 8). -/
def Obligations.MessageReadsBack : Prop :=
  ∀ i : Instr, i.wf = true → i.header.isSome = true → commandIn i.messageBytes = some i

/-! ## Invariants that every step keeps -/

/-- Every step keeps the bounds of the intake queue and the Outbound Queue, and the form of an assembly in progress. -/
def Obligations.StepKeepsLaneBounded : Prop :=
  ∀ s t : State, LaneBounded s → step s = .next t → LaneBounded t

/-- Every step keeps states, holds, settle counts, known classes and link locks together as R25 says. -/
def Obligations.StepKeepsSpokesCoherent : Prop :=
  ∀ s t : State, SpokesCoherent s → step s = .next t → SpokesCoherent t

/-- Every step keeps every bound plan slot READY. -/
def Obligations.StepKeepsBoundReady : Prop := ∀ s t : State, BoundReady s → step s = .next t → BoundReady t

/-- Every step keeps the staging record in agreement with the trim pointer. -/
def Obligations.StepKeepsPointerStaged : Prop :=
  ∀ s t : State, PointerStaged s → step s = .next t → PointerStaged t

/-- Every step keeps every source list free of a source named twice, a disabled channel's list empty, and no channel in
service while tracking is off. -/
def Obligations.StepKeepsChannelsOrdered : Prop :=
  ∀ s t : State, ChannelsOrdered s → step s = .next t → ChannelsOrdered t

/-- Every step keeps the Cutover Engine's items together. -/
def Obligations.StepKeepsEngineCoherent : Prop :=
  ∀ s t : State, EngineCoherent s → step s = .next t → EngineCoherent t

/-- Once the store lock is set, every step leaves it set, power-on reset among them. -/
def Obligations.StoreLockStays : Prop :=
  ∀ s t : State, s.store.locked = true → step s = .next t → t.store.locked = true

/-! ## Resets, the Timebase and the carrier ports -/

/-- POWER_ON_RESET completes from every state, and leaves every block at its reset values: the store keeps its
records, page states and lock, with the working copy absent and the start-up read begun (R1, R4, R147). -/
def Obligations.PowerOnResetLeaves : Prop :=
  ∀ (strap : Fin 8) (s : State), ∃ t, exec (.powerOnReset strap) s = .next t ∧
    t = { State.reset with pending := s.pending, arriving := s.arriving, freeCount := s.freeCount,
                           mgmtPort := t.mgmtPort, store := t.store } ∧
    t.frame = 0 ∧ t.reference = .free ∧ t.mgmtPort.val = min strap.val 5 ∧ (∀ p : PortId, t.ports[p] = false) ∧
    (∀ i : SpokeId, t.spokes[i] = .dark .none ∧ t.links[i] = .dropped) ∧ t.engine = .reset ∧
    t.channels = State.reset.channels ∧ t.settings = Settings.defaults ∧ t.lane = .reset ∧ t.slots = State.reset.slots ∧
    t.store.records = s.store.records ∧ t.store.intact = s.store.intact ∧ t.store.locked = s.store.locked ∧
    (∀ r : RecordId, t.store.working[r] = none) ∧ (∀ p : PageId, t.store.withdrawing[p] = false) ∧
    t.store.engine = .reading ∧ t.store.left = 5

/-- FRAME_BOUNDARY completes in every state whose Timebase takes a boundary, whatever turns are taken first: what the last
boundary left is taken in the model's order (log 2; a store operation's read-back is then free, log 6), the boundary
opens, the turns named are taken (log 3), and the Fault Qualifier takes the boundary. -/
def Sys2Proof.Claims.BoundaryCompletes : Prop :=
  ∀ (before : List Turn) (s : State), s.boundaryRuns = true → ∃ t, exec (.frameBoundary before) s = .next t ∧
    t = (s.closeBoundary.openBoundary.takeTurns before).evaluateRest ∧
    t.frame = s.frame + 1#16 ∧ t.fabric = s.closeBoundary.latch ∧
    (∀ i : SpokeId, t.handed[i] = s.closeBoundary.energyOf i) ∧
    (∀ i : SpokeId, t.meters[i] =
      if s.closeBoundary.spokes[i].state = .live ∧ s.closeBoundary.spokes[i].settle = 0 then
        ⟨moveMeter s.meters[i].value (s.closeBoundary.energyOf i), false⟩
      else ⟨s.meters[i].value, true⟩) ∧
    t.reference = s.reference ∧ t.ports = s.ports ∧ t.feeds = s.feeds ∧ t.slots = s.slots ∧ t.settings = s.settings ∧
    t.pointer = s.pointer ∧ t.staging = s.staging ∧ t.pending = s.pending

/-- What a boundary does as it opens, from the state at the close of the frame: settle countdown (R28), training frames
(R30), poll countdown and suspension (R40), engine (R83), groups (R98, R99) and CLIP (R18). A poll, a dwell's end, a step, a
multiple of 10 training frames, a starved assembly (R156) and the Capture Unit's event (R107) are left due, as turns; of
that event a count lowered, where nothing else is in it, is done at once (log 24). That the poll countdown is lowered at
the first boundary after a poll too is the model's choice (log 29), and so is what the lane's next frame does with the
bytes left over (log 10). -/
def Sys2Proof.Claims.BoundaryOpens : Prop :=
  ∀ c : State, let u := c.openBoundary
    u = { c with frame := c.frame + 1#16, fabric := c.latch, handed := u.handed, spokes := u.spokes, meters := u.meters,
                 groups := u.groups, engine := c.engine.boundary, channels := u.channels, capture := u.capture,
                 store := { c.store with left := c.store.left - 1 }, lane := c.lane.nextFrame, due := u.due } ∧
    (∀ i : SpokeId,
      (c.spokes[i].state = .dark → u.spokes[i] = c.spokes[i] ∧ u.due.poll[i] = false) ∧
      (c.spokes[i].state = .training → u.due.poll[i] = false ∧
        ((c.spokes[i].elapsed + 1) % 10 ≠ 0 →
          u.spokes[i] = { c.spokes[i] with elapsed := c.spokes[i].elapsed + 1 } ∧ u.due.train[i] = false) ∧
        ((c.spokes[i].elapsed + 1) % 10 = 0 → u.spokes[i] = c.spokes[i] ∧ u.due.train[i] = true)) ∧
      (c.spokes[i].state = .live → 0 < c.spokes[i].settle → u.due.poll[i] = false ∧
        u.spokes[i] = { c.spokes[i] with settle := c.spokes[i].settle - 1, nextPoll := 1, outstanding := false }) ∧
      ((c.spokes[i].state = .live ∧ c.spokes[i].settle = 0) ∨ c.spokes[i].state = .quiet ∨ c.spokes[i].state = .isolated →
        (c.spokes[i].nextPoll ≤ 1 → u.spokes[i] = c.spokes[i] ∧ u.due.poll[i] = true) ∧
        (1 < c.spokes[i].nextPoll → u.due.poll[i] = false ∧
          u.spokes[i] = { c.spokes[i] with nextPoll := c.spokes[i].nextPoll - 1 })) ∧
      (u.due.settle[i] = true ↔ c.spokes[i].state = .live ∧ c.spokes[i].settle = 1)) ∧
    (∀ g : GroupId, u.groups[g] = c.groups[g].evaluate (u.load g) ∧ u.due.groups[g] = c.groups[g].turns (u.load g)) ∧
    (let acts : Prop := c.capture.collection ≠ none ∨ c.capture.single ≠ none ∨
       ∃ q, c.capture.continuous = some q ∧ q.next ≤ 1
     (u.due.capture = true ↔ acts) ∧ (acts → u.capture = c.capture) ∧
     (¬acts → u.capture =
       { c.capture with continuous := c.capture.continuous.map fun q => { q with next := q.next - 1 } })) ∧
    (u.due.abandon = true ↔ c.lane.assembly ≠ none ∧ c.lane.fed = false) ∧
    (∀ i : SpokeId, u.due.waiting[i] = c.spokes[i].queue.length) ∧
    u.due.step = c.engine.stepDue ∧ u.due.reports = 4 ∧ (∀ i : SpokeId, u.due.eval[i] = true) ∧
    (∀ ch : ChannelId, ch ≠ chFeedTrouble → u.channels[ch] = c.channels[ch]) ∧
    (∀ f : FeedId, c.fabric.saturated[f] = true → c.channels[chFeedTrouble].enabled = true →
      ∃ e ∈ u.channels[chFeedTrouble].list, e.source = some f.val ∧ e.detail = .clip) ∧
    u.channels = (feedsRaised .clip (fun f => c.fabric.saturated[f]) { c with frame := c.frame + 1#16 }).channels ∧
    OthersKept (fun f => c.fabric.saturated[f]) c.channels[chFeedTrouble] u.channels[chFeedTrouble] ∧
    ((∀ f : FeedId, c.fabric.saturated[f] = false) → u.channels = c.channels)

/-- The Fault Qualifier takes the boundary for each spoke as one event (R114); a spoke for which a row PERSIST_QUALIFY or
QUALIFIER_WINDOW_END stands keeps its records and its evaluation due (log 3). -/
def Sys2Proof.Claims.RestEvaluated : Prop :=
  ∀ (s : State) (i : SpokeId),
    (s.due.eval[i] = true → s.evaluationHasRow i = false →
      s.evaluateRest.quals[i] = (s.evaluateSpoke i).quals[i] ∧ s.evaluateRest.due.eval[i] = false) ∧
    (s.due.eval[i] = false ∨ s.evaluationHasRow i = true →
      s.evaluateRest.quals[i] = s.quals[i] ∧ s.evaluateRest.due.eval[i] = s.due.eval[i])

/-- What the latch gives a spoke (R10 to R12): the cells of its followed plan if it is LIVE under a bound bank, else none;
summed only with settle count 0; and the feed states of the table. -/
def Sys2Proof.Claims.LatchReadsPlans : Prop :=
  ∀ (s : State) (i : SpokeId),
    (s.latch.carry[i] =
      if s.spokes[i].state = .live then ((s.followedEntry i).map (·.cells)).getD noCells else noCells) ∧
    (s.latch.sum[i] = if s.spokes[i].settle = 0 then s.latch.carry[i] else noCells) ∧
    (∀ f : FeedId, s.latch.feedState[f] = s.feeds[f].state)

/-- A spoke's followed plan (R76): bank B's slot where its sweep position is below the line, else bank A's. -/
def Sys2Proof.Claims.FollowerRule : Prop :=
  ∀ (s : State) (i : SpokeId) (n : Fin 32), s.engine.order.toList.Nodup → s.engine.order[n] = i →
    s.engine.sweepPos i = n.val ∧
    (s.engine.followedSlot i = if n.val < s.engine.line.val then s.engine.bankB else s.engine.bankA)

/-- What else the latch does (R13, R18, R19): a position whose latched feed changes has its line cleared, by the carry set
downlink and by the sum set uplink, every other line is kept, and the frame's measurements begin anew. -/
def Sys2Proof.Claims.LinesClearedAtLatch : Prop :=
  ∀ (s : State) (i : SpokeId) (k : CellPos),
    (s.latch.carry[i][k].map (·.feed) = s.fabric.carry[i][k].map (·.feed) →
      s.latch.downLines[i][k] = s.fabric.downLines[i][k]) ∧
    (s.latch.carry[i][k].map (·.feed) ≠ s.fabric.carry[i][k].map (·.feed) →
      ∀ n : Fin 256, tap n s.latch.downLines[i][k] = ⟨0, 0⟩) ∧
    (s.latch.sum[i][k].map (·.feed) = s.fabric.sum[i][k].map (·.feed) →
      s.latch.upLines[i][k] = s.fabric.upLines[i][k]) ∧
    (s.latch.sum[i][k].map (·.feed) ≠ s.fabric.sum[i][k].map (·.feed) →
      ∀ n : Fin 256, tap n s.latch.upLines[i][k] = ⟨0, 0⟩) ∧
    s.latch.energySum[i] = 0 ∧ s.latch.lockedAtOpen[i] = s.links[i].locked ∧
    (∀ f : FeedId, s.latch.saturated[f] = false)

/-- TIMEBASE_RELOCK completes while FREE with the management port UP: at half a frame or more, or after a marker that
was not taken, the marker is the next boundary, as FRAME_BOUNDARY is with the reference LOCKED; earlier it is not taken.
The elapsed microseconds are an operand, the model's choice (log 14). -/
def Sys2Proof.Claims.RelockTakesMarker : Prop :=
  ∀ (micros : Nat) (before : List Turn) (s : State), s.reference = .free → s.mgmtUp = true →
    (500 ≤ micros ∨ s.markerSkipped = true → ∃ t, exec (.timebaseRelock micros before) s = .next t ∧
      exec (.frameBoundary before) { s with reference := .locked, markerSkipped := false } = .next t ∧
      t = ({ s with reference := .locked, markerSkipped := false }.closeBoundary.openBoundary.takeTurns
        before).evaluateRest ∧
      t.frame = s.frame + 1#16 ∧ t.reference = .locked ∧ t.markerSkipped = false ∧ t.ports = s.ports) ∧
    (micros < 500 → s.markerSkipped = false →
      exec (.timebaseRelock micros before) s = .next { s with markerSkipped := true })

/-- CARRIER_PORT_LOCK completes in every state: the port is UP, and nothing else changes and no event is raised. -/
def Sys2Proof.Claims.PortLockRaisesNothing : Prop :=
  ∀ (p : PortId) (s : State), exec (.carrierPortLock p) s = .next { s with ports := s.ports.set p true }

/-- CARRIER_PORT_LOSS of an UP port other than the management port completes (R6, R130): the port is DOWN, SILENT_PORT is
raised on channel 0 once for each of its ACTIVE feeds, in ascending feed order, every other source's entry stays, and
nothing else changes. -/
def Sys2Proof.Claims.PortLossRaisesSilentPort : Prop :=
  ∀ (p : PortId) (s : State), s.ports[p] = true → p ≠ s.mgmtPort → ∃ t, exec (.carrierPortLoss p) s = .next t ∧
    t = { s with ports := s.ports.set p false, channels := (feedsRaised .silentPort (s.activeOf p) s).channels } ∧
    (∀ c : ChannelId, c ≠ chFeedTrouble → t.channels[c] = s.channels[c]) ∧
    (∀ f : FeedId, s.channels[chFeedTrouble].enabled = true → portOf f = p → s.feeds[f].state = .active →
      ∃ e ∈ t.channels[chFeedTrouble].list, e.source = some f.val ∧ e.detail = .silentPort) ∧
    OthersKept (s.activeOf p) s.channels[chFeedTrouble] t.channels[chFeedTrouble] ∧
    ((∀ f : FeedId, portOf f = p → s.feeds[f].state ≠ .active) → t.channels = s.channels)

/-- CARRIER_PORT_LOSS of the management port with no HUB RESET armed: the reference is FREE, the assembly and the Outbound
Queue are gone, held responses are dropped, and the intake queue, the latch with its figures and the notice turn stay. -/
def Sys2Proof.Claims.MgmtPortLossEmptiesLane : Prop :=
  ∀ s : State, s.ports[s.mgmtPort] = true → s.lane.resetArmed = false →
    ∃ t, exec (.carrierPortLoss s.mgmtPort) s = .next t ∧ t.reference = .free ∧ t.mgmtUp = false ∧
      t.lane.assembly = none ∧ t.lane.outbound = [] ∧ t.lane.held = none ∧ t.lane.holder = none ∧
      t.lane.intake = s.lane.intake ∧ t.lane.overrun = s.lane.overrun ∧ t.lane.firstTag = s.lane.firstTag ∧
      t.lane.discards = s.lane.discards ∧ t.lane.turn = s.lane.turn ∧
      t = { s with ports := s.ports.set s.mgmtPort false, reference := t.reference, markerSkipped := t.markerSkipped,
                   channels := t.channels, lane := t.lane, due := t.due } ∧
      (∀ c : ChannelId, entriesOf c s.lane.outbound = [] → c ≠ chFeedTrouble → t.channels[c] = s.channels[c]) ∧
      (∀ c : ChannelId, entriesOf c s.lane.outbound ≠ [] → s.channels[c].enabled = true →
        t.channels[c].pending = true ∧ t.channels[c].inService = false)

/-- CARRIER_PORT_LOSS of the management port with a HUB RESET armed completes: the reset takes effect at that moment (R166),
with the port DOWN and the reference FREE; no notice is handed back. -/
def Sys2Proof.Claims.MgmtPortLossResets : Prop :=
  ∀ s : State, s.ports[s.mgmtPort] = true → s.lane.resetArmed = true →
    exec (.carrierPortLoss s.mgmtPort) s = .next
      { s with ports := s.ports.set s.mgmtPort false, reference := .free, markerSkipped := false }.hubReset

/-- What the loss hands back to a channel (R135): an enabled one leaves service and lists the unsent entries before those
gathered since, each source once, at the place and first frame of its earliest entry, the counts added up to 255,
with the latest detail; a disabled one discards them. That a disabled channel keeps its in-service item is the model's
choice (log 19). -/
def Sys2Proof.Claims.EntriesHandedBack : Prop :=
  (∀ (s : State) (c : ChannelId), s.ports[s.mgmtPort] = true → s.lane.resetArmed = false →
    ∃ t, exec (.carrierPortLoss s.mgmtPort) s = .next t ∧
      let back := entriesOf c s.lane.outbound
      let since := (feedsRaised .silentPort (s.activeOf s.mgmtPort) s).channels[c]
      (s.channels[c].enabled = true → back ≠ [] →
        t.channels[c] = { since with inService := false, list := mergeEntries (back ++ since.list) }) ∧
      (s.channels[c].enabled = false ∨ back = [] → t.channels[c] = since)) ∧
  (∀ l : List SourceEntry, (∀ e ∈ l, e.count ≤ 255) →
    (mergeEntries l).map (·.source) = (l.map (·.source)).eraseDups ∧
    ∀ e ∈ mergeEntries l, ∃ x rest, l.filter (fun y => y.source == e.source) = x :: rest ∧ e.first = x.first ∧
      e.count = min 255 ((x :: rest).map (·.count)).sum ∧ some e.detail = ((x :: rest).getLast?).map (·.detail))

/-! ## Raises and what blocks share -/

/-- A raise (R130): none on a disabled channel; on an enabled one a new source gets an entry at the end with the present
frame and count 1, and a source that has one counts on to 255 and takes the new detail. -/
def Obligations.RaiseGathers : Prop :=
  ∀ (s : State) (ch : ChannelId) (src : Option Nat) (d : Detail),
    (s.channels[ch].enabled = false → s.raise ch src d = s) ∧
    (∀ c : ChannelId, c ≠ ch → (s.raise ch src d).channels[c] = s.channels[c]) ∧
    (s.channels[ch].enabled = true → (s.raise ch src d).channels[ch].pending = true ∧
      (s.raise ch src d).channels[ch].masked = s.channels[ch].masked ∧
      (s.raise ch src d).channels[ch].inService = s.channels[ch].inService ∧
      (s.raise ch src d).channels[ch].enabled = true ∧
      ((∀ e ∈ s.channels[ch].list, e.source ≠ src) →
        (s.raise ch src d).channels[ch].list = s.channels[ch].list ++ [⟨src, s.frame, 1, d⟩]) ∧
      (∀ l e r, s.channels[ch].list = l ++ e :: r → e.source = src → (∀ x ∈ l, x.source ≠ src) →
        (s.raise ch src d).channels[ch].list = l ++ { e with count := min 255 (e.count + 1), detail := d } :: r))

/-- An isolation request (R26): nothing where an isolate hold stands; else the hold takes the reason and the state changes by
R26's table, the settle count is 0, ISOLATION is raised on channel 13 with the reason, a FAULT's kind in it, and, of a
LIVE spoke, the Cutover Engine is told (R28) and a collection becomes INCOMPLETE (R109). -/
def Sys2Proof.Claims.IsolationSetsHold : Prop :=
  ∀ (s : State) (i : SpokeId) (reason : Reason), let t := s.isolate i reason
    (s.spokes[i].hold.isolates = true → t = s) ∧
    (s.spokes[i].hold.isolates = false →
      t = { s with spokes := t.spokes, engine := t.engine, channels := t.channels, capture := t.capture, due := t.due } ∧
      t.spokes = update s.spokes i (fun r => { r with
        hold := .isolate reason, settle := 0
        state := match r.state with
          | .live | .quiet | .isolated => .isolated
          | .training => if reason = .noHello ∨ reason = .classUnknown then .isolated else .training
          | .dark => .dark }) ∧
      t.channels[(13 : ChannelId)] = (s.raise 13 (some i.val) (.isolation reason)).channels[(13 : ChannelId)] ∧
      (s.spokes[i].state ≠ .live → t.engine = s.engine ∧ t.capture = s.capture ∧ t.due = s.due ∧
        ∀ c : ChannelId, c ≠ 13 → t.channels[c] = s.channels[c]) ∧
      (s.spokes[i].state = .live → t.engine = (s.tellEngine i).engine ∧
        (∀ c : ChannelId, c ≠ 13 → t.channels[c] = (s.tellEngine i).channels[c]) ∧
        t.capture = { s.capture with collection := s.capture.collection.map fun c =>
          if c.target.spoke = i then { c with live := false } else c }))

/-- The class check (R29) passes where the spoke is not LIVE, its followed plan expects no class of it, or the class is the
known one; else the spoke is isolated with CLASS_MISMATCH. -/
def Sys2Proof.Claims.ClassCheckIsolatesMismatch : Prop :=
  ∀ (s : State) (i : SpokeId),
    (s.spokes[i].state ≠ .live → s.classCheck i = s) ∧ (s.expectedClass i = none → s.classCheck i = s) ∧
    (s.expectedClass i = s.spokes[i].knownClass → s.classCheck i = s) ∧
    (∀ c, s.spokes[i].state = .live → s.expectedClass i = some c → s.spokes[i].knownClass ≠ some c →
      s.classCheck i = s.isolate i .classMismatch)

/-! ## Spoke links and reports -/

/-- SPOKE_LINK_LOCK of a DARK spoke completes: TRAINING with no frame counted, and a HELLO REQUEST waiting. -/
def Sys2Proof.Claims.LinkLockEntersTraining : Prop :=
  ∀ (i : SpokeId) (s : State), s.spokes[i].state = .dark → s.links[i].locked = false →
    ∃ t, exec (.spokeLinkLock i) s = .next t ∧ t = { s with spokes := t.spokes, links := t.links, due := t.due } ∧
      t.spokes[i] = { s.spokes[i] with state := .training, elapsed := 0 } ∧ t.links[i].locked = true ∧
      Request.hello ∈ t.links[i].requests ∧
      (∀ j : SpokeId, j ≠ i → t.spokes[j] = s.spokes[j] ∧ t.links[j] = s.links[j])

/-- SPOKE_LINK_LOSS outside DARK completes: the record takes the second column of R24 with the hold kept, the link is
dropped, and LINK_LOST is raised with the spoke as source, and DURATION, cut short, for each record that was MEASURING
(R124; their order is log 11). -/
def Sys2Proof.Claims.LinkLossGoesDark : Prop :=
  ∀ (i : SpokeId) (s : State), s.spokes[i].state ≠ .dark → ∃ t, exec (.spokeLinkLoss i) s = .next t ∧
    t.spokes[i] = .dark s.spokes[i].hold ∧ t.links[i] = .dropped ∧ (∀ k : FaultKind, t.qual i k = .reset) ∧
    (∀ j : SpokeId, j ≠ i → t.spokes[j] = s.spokes[j] ∧ t.links[j] = s.links[j] ∧ t.quals[j] = s.quals[j]) ∧
    (s.channels[chLinkLost].enabled = true →
      ∃ e ∈ t.channels[chLinkLost].list, e.source = some i.val ∧ e.detail = .none) ∧
    t.channels[(1 : ChannelId)] = durationCutShort s i ∧
    t = { s with spokes := t.spokes, links := t.links, quals := t.quals, engine := t.engine, channels := t.channels,
                 capture := t.capture, due := t.due }

/-- SAMPLE_GROUP_DAMAGED on a locked link completes: the group is zero samples for its duration, and its FRAME_ERRORS
event in COUNT mode opens a window, counts in it, or is absorbed by a qualified one (R23, R119). The group's length is
an operand, and groups that follow each other add (log 5), the model's choice. -/
def Sys2Proof.Claims.DamagedGroupCounts : Prop :=
  ∀ (i : SpokeId) (n : Nat) (s : State), s.links[i].locked = true → s.spokes[i].state ≠ .dark →
    (s.settingsOf .frameErrors).mode = .count → 1 < (s.settingsOf .frameErrors).n →
    ∃ t, exec (.sampleGroupDamaged i n) s = .next t ∧ t.links[i].damaged = s.links[i].damaged + n ∧
      t = { s with links := t.links, quals := t.quals, spokes := t.spokes, engine := t.engine, channels := t.channels,
                   capture := t.capture, due := t.due } ∧
      ((s.qual i .frameErrors).state = .idle → (t.qual i .frameErrors).state = .armed ∧
        (t.qual i .frameErrors).count = 1 ∧ (t.qual i .frameErrors).window =
          (s.settingsOf .frameErrors).window * unitFrames (s.settingsOf .frameErrors).unit) ∧
      ((s.qual i .frameErrors).state = .armed →
        (t.qual i .frameErrors).count = (s.qual i .frameErrors).count + 1 ∧
        ((t.qual i .frameErrors).state = .qualified ↔
          (s.qual i .frameErrors).count + 1 = (s.settingsOf .frameErrors).n)) ∧
      ((s.qual i .frameErrors).state = .qualified → t = { s with links := t.links })

/-- SAMPLE_GROUP_DAMAGED where its FRAME_ERRORS event qualifies (R117, R119, R122, R123): in IMMEDIATE at every event, with the
record unchanged and detail 1; in COUNT at the first event where N is 1, and at the N-th of a window, with detail N. -/
def Sys2Proof.Claims.DamagedGroupQualifies : Prop :=
  ∀ (i : SpokeId) (n : Nat) (s : State), s.links[i].locked = true → s.spokes[i].state ≠ .dark →
    ((s.settingsOf .frameErrors).mode = .immediate → ∃ t, exec (.sampleGroupDamaged i n) s = .next t ∧
      t.quals = s.quals ∧ t.links[i].damaged = s.links[i].damaged + n ∧ Qualified s t i .frameErrors (.errors 1)) ∧
    ((s.settingsOf .frameErrors).mode = .count → (s.settingsOf .frameErrors).n = 1 →
      (s.qual i .frameErrors).state = .idle → ∃ t, exec (.sampleGroupDamaged i n) s = .next t ∧
        (t.qual i .frameErrors).state = .qualified ∧ (t.qual i .frameErrors).count = 1 ∧
        (t.qual i .frameErrors).window =
          (s.settingsOf .frameErrors).window * unitFrames (s.settingsOf .frameErrors).unit ∧
        Qualified s t i .frameErrors (.errors 1)) ∧
    ((s.settingsOf .frameErrors).mode = .count → (s.qual i .frameErrors).state = .armed →
      (s.qual i .frameErrors).count + 1 = (s.settingsOf .frameErrors).n →
      ∃ t, exec (.sampleGroupDamaged i n) s = .next t ∧ t.qual i .frameErrors = { s.qual i .frameErrors with
          state := .qualified, count := (s.settingsOf .frameErrors).n } ∧
        Qualified s t i .frameErrors (.errors (s.settingsOf .frameErrors).n))

/-- NODE_REQUEST_SEND completes on a locked link with a request waiting: the oldest is sent whole and leaves the list.
That the sending is one step is the model's choice (log 21). -/
def Sys2Proof.Claims.RequestSentOldestFirst : Prop :=
  ∀ (i : SpokeId) (s : State) (q : Request) (rest : List Request), s.links[i].locked = true →
    s.links[i].requests = q :: rest →
    exec (.nodeRequestSend i) s =
      .next (s.mapLink i fun _ => { s.links[i] with requests := rest, sending := some q })

/-- REPORT_LEAD_BYTE completes on a locked link (R34, R175): with no assembly in progress one begins and nothing else
changes; in an assembly the byte is one of the report's: as the length it completes a damaged report, and else it is
taken on or completes the report. -/
def Sys2Proof.Claims.LeadByteBeginsAssembly : Prop :=
  ∀ (i : SpokeId) (s : State), s.links[i].locked = true →
    (s.spokes[i].assembly = none →
      exec (.reportLeadByte i) s = .next (s.mapSpoke i fun r => { r with assembly := some [0x5A#8] })) ∧
    (∀ lead, s.spokes[i].assembly = some [lead] → ∃ rep t, rep.isDamaged = true ∧
      exec (.reportLeadByte i) s = .next t ∧ ReportEnters i rep s t) ∧
    (∀ lead len rest, s.spokes[i].assembly = some (lead :: len :: rest) →
      (rest.length + 3 < len.toNat → exec (.reportLeadByte i) s =
        .next (s.mapSpoke i fun r => { r with assembly := some (lead :: len :: rest ++ [0x5A#8]) })) ∧
      (rest.length + 3 = len.toNat → ∃ t, exec (.reportLeadByte i) s = .next t ∧
        ReportEnters i (readReport (lead :: len :: rest ++ [0x5A#8])) s t))

/-- REPORT_COMPLETE completes on a locked link with the bytes still missing of a report, all of them where no assembly is in
progress (R34, R35): the report is queued, discarded, or discarded with the latch set and REPORT_OVERRUN raised. That
one row brings every byte still missing is the model's choice (log 18). -/
def Sys2Proof.Claims.ReportQueuedOrDiscarded : Prop :=
  ∀ (i : SpokeId) (s : State) (bytes : List Byte) (len : Byte) (rest : List Byte), s.links[i].locked = true →
    bytes ≠ [] → s.spokes[i].assembly.getD [] ++ bytes = reportLead :: len :: rest →
    5 ≤ len.toNat → len.toNat ≤ 12 → rest.length + 2 = len.toNat →
    ∃ t, exec (.reportComplete i bytes) s = .next t ∧ ReportEnters i (readReport (reportLead :: len :: rest)) s t

/-- The contents of the four reports (R174), with the health values limited to their ranges (R34). -/
def Sys2Proof.Claims.ReportsReadAsWritten : Prop :=
  (∀ (cls : NodeClass) (n3 n2 n1 n0 : Byte),
    readReport (withCheck [0x5A, 10, 0x01, BitVec.ofNat 8 cls.val, n3, n2, n1, n0]) = .hello cls) ∧
  (∀ temp o1 o0 : Byte,
    readReport (withCheck [0x5A, 9, 0x02, temp, o1, o0, 0]) =
      .health (max (-40) (min 125 temp.toInt)) (max (-300) (min 50 (o1 ++ o0 : BitVec 16).toInt)) .ok ∧
    readReport (withCheck [0x5A, 9, 0x02, temp, o1, o0, 1]) =
      .health (max (-40) (min 125 temp.toInt)) (max (-300) (min 50 (o1 ++ o0 : BitVec 16).toInt)) .low) ∧
  (∀ x ∈ [(1#8, FaultCode.overheat), (2#8, .vswr), (3#8, .supply), (4#8, .amplifier), (5#8, .internal)],
    readReport (withCheck [0x5A, 6, 0x03, x.1]) = .fault x.2 ∧ readReport (withCheck [0x5A, 6, 0x04, x.1]) = .clear x.2)

/-- The seven marks of damage (R175): a length outside 5 to 12, which completes the report at the length byte; a check that
fails; a kind that is none of the four; a length that is not the kind's; a class above 7; a fault code outside 1 to 5;
a supply other than 0 or 1. The kind a damaged report keeps is log 12; that one row REPORT_COMPLETE brings the bytes still
missing is log 18. -/
def Sys2Proof.Claims.DamageMarked : Prop :=
  (∀ (i : SpokeId) (s : State) (bytes : List Byte) (len : Byte), s.links[i].locked = true →
    bytes ≠ [] → s.spokes[i].assembly.getD [] ++ bytes = [0x5A#8, len] → len.toNat < 5 ∨ 12 < len.toNat →
    ∃ rep t, rep.isDamaged = true ∧ exec (.reportComplete i bytes) s = .next t ∧ ReportEnters i rep s t) ∧
  (∀ bytes : List Byte, checkPasses bytes = false → (readReport bytes).isDamaged = true) ∧
  (∀ (len kind : Byte) (rest : List Byte), 4 < kind.toNat ∨ kind = 0#8 ∨ (kind = 0x01#8 ∧ rest.length ≠ 7) ∨
    (kind = 0x02#8 ∧ rest.length ≠ 6) ∨ ((kind = 0x03#8 ∨ kind = 0x04#8) ∧ rest.length ≠ 3) →
    (readReport (0x5A#8 :: len :: kind :: rest)).isDamaged = true) ∧
  (∀ b n3 n2 n1 n0 : Byte,
    (7 < b.toNat → (readReport (withCheck [0x5A, 10, 0x01, b, n3, n2, n1, n0])).isDamaged = true) ∧
    (b = 0#8 ∨ 5 < b.toNat → (readReport (withCheck [0x5A, 6, 0x03, b])).isDamaged = true ∧
      (readReport (withCheck [0x5A, 6, 0x04, b])).isDamaged = true) ∧
    (1 < b.toNat → (readReport (withCheck [0x5A, 9, 0x02, n2, n1, n0, b])).isDamaged = true))

/-- A search of the report taker (R36): from the spoke after its position, ascending and wrapping, to the first spoke whose
queue is not empty; REPORT_TAKE with no queued report stops the taker for this boundary. -/
def Sys2Proof.Claims.TakerSearches : Prop :=
  ∀ s : State,
    (s.due.reports = 0 → exec .reportTake s = .next s) ∧
    ((∀ i : SpokeId, s.spokes[i].queue = []) →
      exec .reportTake s = .next { s with due := { s.due with reports := 0 } }) ∧
    (∀ k : Fin 32, s.spokes[s.takerPos + 1 + k].queue ≠ [] →
      (∀ j : Fin 32, j < k → s.spokes[s.takerPos + 1 + j].queue = []) → s.nextQueued = some (s.takerPos + 1 + k))

/-- REPORT_TAKE completes where a taking is left and a report is queued: the report leaves its queue, the taker's position is
its spoke, and the report acts by its kind and the spoke's state (R31, R36 to R39); a damaged one is a FRAME_ERRORS
event. -/
def Sys2Proof.Claims.TakenReportActs : Prop :=
  ∀ (s : State) (i : SpokeId) (rep : Report) (rest : List Report), 0 < s.due.reports → s.nextQueued = some i →
    s.spokes[i].queue = rep :: rest →
    let u := { s with
      takerPos := i, spokes := update s.spokes i (fun r => { r with queue := rest })
      due := { s.due with reports := s.due.reports - 1, waiting := update s.due.waiting i (· - 1) } }
    ∃ t, exec .reportTake s = .next t ∧
      (∀ temp opt sup, rep = .health temp opt sup → t = { u with spokes := update u.spokes i fun r =>
        { r with temperature := some temp, optical := some opt, supply := some sup, missed := 0,
                 outstanding := false } }) ∧
      (∀ c, rep = .fault c →
        t = { u with spokes := update u.spokes i fun r => { r with faults := r.faults ||| c.bit } }) ∧
      (∀ c, rep = .clear c →
        t = { u with spokes := update u.spokes i fun r => { r with faults := r.faults &&& ~~~c.bit } }) ∧
      (∀ cls, rep = .hello cls → s.spokes[i].state = .training → t = u.helloInTraining i cls) ∧
      (∀ cls, rep = .hello cls → s.spokes[i].state ≠ .training → s.spokes[i].state ≠ .dark →
        t = u.helloTaken i cls) ∧
      (∀ k, rep = .damaged k → t = u.frameErrors i)

/-- A HELLO taken in TRAINING (R31): with its class absent the spoke is ISOLATED, with CLASS_UNKNOWN and ISOLATION raised
where no isolate hold stands (R26); with it present the class is recorded and the hold decides between ISOLATED, QUIET
and LIVE; LIVE raises LINK_UP and has the restore settle unless its class check isolates it with CLASS_MISMATCH and
raises ISOLATION too (R29). -/
def Sys2Proof.Claims.HelloInTraining : Prop :=
  ∀ (s : State) (i : SpokeId) (cls : NodeClass), s.spokes[i].state = .training →
    let t := s.helloInTraining i cls
    t = { s with spokes := t.spokes, links := t.links, engine := t.engine, channels := t.channels,
                 capture := t.capture, due := t.due } ∧
    (∀ j : SpokeId, j ≠ i → t.spokes[j] = s.spokes[j] ∧ t.links[j] = s.links[j]) ∧
    t.spokes[i].elapsed = 0 ∧ t.spokes[i].nextPoll = 1 ∧ t.spokes[i].outstanding = false ∧
    Request.hello ∉ t.links[i].requests ∧
    (s.store.nodeClass cls = none → t.spokes[i].state = .isolated ∧ t.spokes[i].knownClass = s.spokes[i].knownClass ∧
      (s.spokes[i].hold.isolates = true → t.spokes[i].hold = s.spokes[i].hold ∧ t.channels = s.channels) ∧
      (s.spokes[i].hold.isolates = false → t.spokes[i].hold = .isolate .classUnknown ∧
        t.channels = (s.raise 13 (some i.val) (.isolation .classUnknown)).channels)) ∧
    (∀ r, s.store.nodeClass cls = some r → t.spokes[i].knownClass = some cls ∧
      (s.spokes[i].hold.isolates = true → t.spokes[i].state = .isolated ∧ t.spokes[i].hold = s.spokes[i].hold ∧
        t.channels = s.channels) ∧
      (s.spokes[i].hold = .quiet → t.spokes[i].state = .quiet ∧ t.spokes[i].hold = .quiet ∧ t.channels = s.channels) ∧
      (s.spokes[i].hold = .none → s.channels[chLinkUp].enabled = true →
        ∃ e ∈ t.channels[chLinkUp].list, e.source = some i.val ∧ e.detail = .none) ∧
      (s.spokes[i].hold = .none → (s.expectedClass i = none ∨ s.expectedClass i = some cls) →
        t.spokes[i].state = .live ∧ t.spokes[i].hold = .none ∧ t.spokes[i].settle = s.restoreSettle ∧
        t.channels = (s.raise chLinkUp (some i.val) .none).channels) ∧
      (s.spokes[i].hold = .none → (∃ c, s.expectedClass i = some c ∧ c ≠ cls) →
        t.spokes[i].state = .isolated ∧ t.spokes[i].hold = .isolate .classMismatch ∧ t.spokes[i].settle = 0 ∧
        t.channels[chLinkUp] = (s.raise chLinkUp (some i.val) .none).channels[chLinkUp] ∧
        t.channels[(13 : ChannelId)] =
          (s.raise 13 (some i.val) (.isolation .classMismatch)).channels[(13 : ChannelId)]))

/-- A HELLO taken in LIVE, QUIET or ISOLATED (R37): an absent class isolates with CLASS_UNKNOWN and raises ISOLATION (R26);
the known class settles a LIVE spoke again and clears its fault codes; another class replaces it, and a LIVE spoke meets
the class check, which isolates it with CLASS_MISMATCH and raises ISOLATION (R29). -/
def Sys2Proof.Claims.HelloInPlace : Prop :=
  ∀ (s : State) (i : SpokeId) (cls : NodeClass), s.spokes[i].state ≠ .dark → s.spokes[i].state ≠ .training →
    let t := s.helloTaken i cls
    t = { s with spokes := t.spokes, engine := t.engine, channels := t.channels, capture := t.capture, due := t.due } ∧
    (∀ j : SpokeId, j ≠ i → t.spokes[j] = s.spokes[j]) ∧
    (s.store.nodeClass cls = none →
      (s.spokes[i].hold.isolates = true → t = s.mapSpoke i fun r => { r with knownClass := none }) ∧
      (s.spokes[i].hold.isolates = false →
        t.spokes[i] = { s.spokes[i] with
          knownClass := none, state := .isolated, hold := .isolate .classUnknown, settle := 0 } ∧
        t.channels[(13 : ChannelId)] =
          (s.raise 13 (some i.val) (.isolation .classUnknown)).channels[(13 : ChannelId)])) ∧
    (∀ r, s.store.nodeClass cls = some r →
      (s.spokes[i].knownClass = some cls →
        (s.spokes[i].state ≠ .live → t = s) ∧
        (s.spokes[i].state = .live →
          t = s.mapSpoke i fun r => { r with settle := max r.settle s.restoreSettle, faults := 0 })) ∧
      (s.spokes[i].knownClass ≠ some cls →
        (s.spokes[i].state ≠ .live ∨ s.expectedClass i = none ∨ s.expectedClass i = some cls →
          t = s.mapSpoke i fun r => { r with knownClass := some cls }) ∧
        (s.spokes[i].state = .live → s.spokes[i].hold.isolates = false →
          (∃ c, s.expectedClass i = some c ∧ c ≠ cls) → t.spokes[i] = { s.spokes[i] with
            knownClass := some cls, state := .isolated, hold := .isolate .classMismatch, settle := 0 } ∧
            t.channels[(13 : ChannelId)] =
              (s.raise 13 (some i.val) (.isolation .classMismatch)).channels[(13 : ChannelId)])))

/-- REPORT_TAKE of a HELLO completes: it acts on the state in which the report has left its queue. -/
def Sys2Proof.Claims.HelloTakenByTaker : Prop :=
  ∀ (s : State) (i : SpokeId) (cls : NodeClass) (rest : List Report), 0 < s.due.reports → s.nextQueued = some i →
    s.spokes[i].queue = .hello cls :: rest → s.spokes[i].state ≠ .dark →
    ∃ u : State, u = { s with takerPos := i, due := u.due, spokes := update s.spokes i (fun r => { r with queue := rest }) } ∧
      exec .reportTake s = .next (if s.spokes[i].state = .training then u.helloInTraining i cls else u.helloTaken i cls)

/-! ## Turns of a boundary -/

/-- HELLO_REQUEST_REPEAT completes for a spoke in TRAINING whose raise is due and stays below 200: the count rises by 1 and,
at a multiple of 10, a HELLO REQUEST waits (R30). -/
def Sys2Proof.Claims.HelloRequestRepeats : Prop :=
  ∀ (i : SpokeId) (s : State), s.due.train[i] = true → s.spokes[i].state = .training → s.spokes[i].elapsed + 1 < 200 →
    ∃ t, exec (.helloRequestRepeat i) s = .next t ∧
      t = { s with spokes := t.spokes, links := t.links, due := { s.due with train := s.due.train.set i false } } ∧
      t.spokes = update s.spokes i (fun r => { r with elapsed := r.elapsed + 1 }) ∧
      ((s.spokes[i].elapsed + 1) % 10 = 0 → Request.hello ∈ t.links[i].requests) ∧
      ((s.spokes[i].elapsed + 1) % 10 ≠ 0 → t.links = s.links) ∧
      (∀ j : SpokeId, j ≠ i → t.links[j] = s.links[j])

/-- TRAINING_LIMIT completes for a spoke in TRAINING whose count reaches 200: ISOLATED, with NO_HELLO unless an isolate hold
stood, polled from the next boundary, with no HELLO REQUEST waiting (R32, R22). -/
def Sys2Proof.Claims.TrainingLimitIsolates : Prop :=
  ∀ (i : SpokeId) (s : State), s.due.train[i] = true → s.spokes[i].state = .training → 200 ≤ s.spokes[i].elapsed + 1 →
    ∃ t, exec (.trainingLimit i) s = .next t ∧ t.spokes[i].state = .isolated ∧
      t.spokes[i].hold = (if s.spokes[i].hold.isolates then s.spokes[i].hold else .isolate .noHello) ∧
      t.spokes[i].elapsed = 0 ∧ t.spokes[i].nextPoll = 1 ∧ t.spokes[i].outstanding = false ∧
      t.spokes[i].knownClass = s.spokes[i].knownClass ∧ Request.hello ∉ t.links[i].requests ∧
      (s.spokes[i].hold.isolates = true → t.channels = s.channels) ∧
      (s.spokes[i].hold.isolates = false → s.channels[chIsolation].enabled = true →
        ∃ e ∈ t.channels[chIsolation].list, e.source = some i.val ∧ e.detail = .isolation .noHello) ∧
      (∀ j : SpokeId, j ≠ i → t.spokes[j] = s.spokes[j]) ∧
      t = { s with spokes := t.spokes, links := t.links, channels := t.channels, due := t.due }

/-- SETTLE_END completes where a settle count reached 0 by countdown and no settle start can still be taken: the Cutover
Engine is told (R28). That it waits for the step and the takings, and stops the taker where no report is queued (R36), is
log 22. -/
def Sys2Proof.Claims.SettleEndTells : Prop :=
  ∀ (i : SpokeId) (s : State), s.due.settle[i] = true → s.due.step = false →
    (s.due.reports = 0 ∨ (∀ j : SpokeId, s.spokes[j].queue = []) →
      let t := { s with due := { s.due with settle := s.due.settle.set i false, reports := 0 } }
      exec (.settleEnd i) s = .next (if s.spokes[i].state = .live ∧ s.spokes[i].settle = 0 then t.tellEngine i else t)) ∧
    (∀ j : SpokeId, 0 < s.due.reports → s.spokes[j].queue ≠ [] → exec (.settleEnd i) s = .next s)

/-- What the engine does when it is told of a spoke (R85 to R88): nothing unless it is the spoke of a current step that is
not complete; short of the target in STEPPING the step is complete; at the target the cutover ends DONE, a flagged fold
made at line 32; in HALTING it ends HALTED with no fold. -/
def Sys2Proof.Claims.EngineTold : Prop :=
  ∀ (s : State) (i : SpokeId),
    (s.engine.current = none ∨ s.engine.state = .idle → s.tellEngine i = s) ∧
    (∀ c, s.engine.current = some c → c.spoke ≠ i ∨ c.complete = true → s.tellEngine i = s) ∧
    (∀ c p, s.engine.current = some c → c.spoke = i → c.complete = false → s.engine.params = some p →
      let t := s.tellEngine i
      t = { s with engine := t.engine, channels := t.channels } ∧
      (s.engine.state = .stepping → s.engine.line ≠ p.target → t.channels = s.channels ∧
        t.engine = { s.engine with current := some { c with complete := true } }) ∧
      (s.engine.state = .stepping → s.engine.line = p.target → p.fold = true → p.target = 32 →
        t.engine = { s.engine with state := .idle, current := none, bankA := s.engine.bankB, bankB := none, line := 0 } ∧
        (s.channels[chCutoverEnd].enabled = true → ∃ e ∈ t.channels[chCutoverEnd].list,
          e.source = none ∧ e.detail = .cutoverEnd false 0 true p.origin)) ∧
      (s.engine.state = .stepping → s.engine.line = p.target → p.fold = false ∨ p.target ≠ 32 →
        t.engine = { s.engine with state := .idle, current := none } ∧
        (s.channels[chCutoverEnd].enabled = true → ∃ e ∈ t.channels[chCutoverEnd].list,
          e.source = none ∧ e.detail = .cutoverEnd false s.engine.line false p.origin)) ∧
      (s.engine.state = .halting → t.engine = { s.engine with state := .idle, current := none } ∧
        (s.channels[chCutoverEnd].enabled = true → ∃ e ∈ t.channels[chCutoverEnd].list,
          e.source = none ∧ e.detail = .cutoverEnd true s.engine.line false p.origin)))

/-- A spoke that leaves LIVE by SPOKE_LINK_LOSS or SPOKE RETRAIN tells the engine (R85). -/
def Sys2Proof.Claims.DepartureTells : Prop :=
  (∀ (i : SpokeId) (s : State), s.spokes[i].state = .live → ∃ t, exec (.spokeLinkLoss i) s = .next t ∧
    t.engine = (s.tellEngine i).engine ∧ t.channels[chCutoverEnd] = (s.tellEngine i).channels[chCutoverEnd]) ∧
  (∀ (tag b : Byte) (i : SpokeId) (s t : State), below 32 b = some i → s.claim (.spokeRetrain tag b) = some t →
    t.spokes[i].state = .live → ∃ u, Answers (.spokeRetrain tag b) s .done [] u ∧
      u.engine = (t.tellEngine i).engine ∧ u.channels[chCutoverEnd] = (t.tellEngine i).channels[chCutoverEnd])

/-- HEALTH_POLL_DUE completes where a poll falls due: a miss is counted, up to 3, where one is outstanding, a HEALTH POLL is
made, and the count is reloaded with the poll period (R40). -/
def Sys2Proof.Claims.PollFallsDue : Prop :=
  ∀ (i : SpokeId) (s : State), s.due.poll[i] = true → ∃ t, exec (.healthPollDue i) s = .next t ∧
    t = { s with spokes := t.spokes, links := t.links, due := { s.due with poll := s.due.poll.set i false } } ∧
    t.spokes = update s.spokes i (fun r =>
      { r with missed := if r.outstanding then min 3 (r.missed + 1) else r.missed, outstanding := true,
               nextPoll := s.pollPeriod }) ∧
    Request.healthPoll ∈ t.links[i].requests ∧ (∀ j : SpokeId, j ≠ i → t.links[j] = s.links[j])

/-- CROWDED_ENTRY completes for a RISING group whose dwell runs out: CROWDED; its relief, if it carries one, is taken by the
engine as R90 says; CROWD_HIGH is raised with the load and the outcome (R100). -/
def Obligations.CrowdedEntryRelieves : Prop :=
  ∀ (g : GroupId) (s : State), s.due.groups[g] = true → s.groups[g].state = .rising →
    ∃ t, exec (.crowdedEntry g) s = .next t ∧ t.groups[g].state = .crowded ∧ t.groups[g].remaining = 0 ∧
      (∀ h : GroupId, h ≠ g → t.groups[h] = s.groups[h]) ∧
      t = { s with groups := t.groups, engine := t.engine, restoreSettle := t.restoreSettle, channels := t.channels,
                   due := t.due } ∧
      (s.groups[g].relief = none → t.groups[g].reliefState = s.groups[g].reliefState ∧ t.engine = s.engine ∧
        t.restoreSettle = s.restoreSettle) ∧
      (∀ r, s.groups[g].relief = some r →
        (s.engine.state ≠ .idle → t.groups[g].reliefState = .busy ∧ t.engine = s.engine ∧
          t.restoreSettle = s.restoreSettle) ∧
        (s.engine.state = .idle → r.target = s.engine.line →
          t.groups[g].reliefState = .atTarget ∧ t.engine = s.engine ∧
          t.restoreSettle = s.restoreSettle) ∧
        (s.engine.state = .idle → r.target ≠ s.engine.line →
          (s.engine.line < r.target ∧ s.engine.bankB = none ∨ r.target < s.engine.line ∧ s.engine.bankA = none) →
          t.groups[g].reliefState = .unbound ∧ t.engine = s.engine ∧
          t.restoreSettle = s.restoreSettle) ∧
        (s.engine.state = .idle → (s.engine.line < r.target ∧ s.engine.bankB ≠ none ∨ r.target < s.engine.line ∧ s.engine.bankA ≠ none) →
          t.groups[g].reliefState = .fired ∧ t.restoreSettle = r.settle ∧
          t.engine = { s.engine with state := .stepping, current := none,
                                     params := some ⟨r.target, r.interval, r.settle, false, .relief g⟩ })) ∧
      (s.channels[chCrowdHigh].enabled = true → ∃ e ∈ t.channels[chCrowdHigh].list, e.source = some g.val ∧
        e.detail = .crowdHigh (s.load g) (if s.groups[g].relief = none then .none else t.groups[g].reliefState))

/-- GROUP_CALM completes for a FALLING group whose dwell runs out: CALM, and CROWD_LOW is raised with the load (R99). -/
def Sys2Proof.Claims.GroupBecomesCalm : Prop :=
  ∀ (g : GroupId) (s : State), s.due.groups[g] = true → s.groups[g].state = .falling →
    ∃ t, exec (.groupCalm g) s = .next t ∧
      t = { s with groups := t.groups, channels := t.channels, due := { s.due with groups := s.due.groups.set g false } } ∧
      t.groups = update s.groups g (fun r => { r with state := .calm, remaining := 0 }) ∧
      (s.channels[chCrowdLow].enabled = true →
        ∃ e ∈ t.channels[chCrowdLow].list, e.source = some g.val ∧ e.detail = .crowdLow (s.load g))

/-- A group's evaluation (R98, R99), in every state and with every dwell: when its dwell runs out, which leaves CROWDED_ENTRY
or GROUP_CALM due and the record as it is, and where it goes when it does not. -/
def Sys2Proof.Claims.GroupComparesThresholds : Prop :=
  ∀ (g : Group) (load : Nat),
    (g.turns load = true ↔ g.remaining ≤ 1 ∧
      ((g.state = .rising ∧ g.high < load) ∨ (g.state = .falling ∧ load < g.low))) ∧
    (g.turns load = true → g.evaluate load = g) ∧ (g.state = .off → g.evaluate load = g) ∧
    (g.state = .calm → g.evaluate load =
      if g.high < load then { g with state := .rising, remaining := g.dwell } else g) ∧
    (g.state = .rising → load ≤ g.high → g.evaluate load = { g with state := .calm, remaining := 0 }) ∧
    (g.state = .rising → g.high < load → 1 < g.remaining →
      g.evaluate load = { g with remaining := g.remaining - 1 }) ∧
    (g.state = .crowded → g.evaluate load =
      if load < g.low then { g with state := .falling, remaining := g.dwell } else g) ∧
    (g.state = .falling → g.low ≤ load → g.evaluate load = { g with state := .crowded, remaining := 0 }) ∧
    (g.state = .falling → load < g.low → 1 < g.remaining →
      g.evaluate load = { g with remaining := g.remaining - 1 })

/-- CUTOVER_STEP completes where a step is due (R84, R85), and the plans stay. Up or down, the line moves by 1 over
the spoke at that place of the sweep order; one that is not LIVE completes a step short of the target at once; upward,
a LIVE one of which no class is expected starts its settle. -/
def Sys2Proof.Claims.StepMovesOneSpoke : Prop :=
  ∀ (s : State) (p : Params), s.due.step = true → s.engine.state = .stepping → s.engine.params = some p →
    s.engine.line ≠ p.target → ∃ t, exec .cutoverStep s = .next t ∧
      t = { s with spokes := t.spokes, engine := t.engine, channels := t.channels, capture := t.capture,
                   due := t.due } ∧
      (∀ up : Fin 32, s.engine.line < p.target → up.val = s.engine.line.val → s.engine.line.val + 1 ≠ p.target.val →
        s.spokes[s.engine.order[up]].state ≠ .live →
        t.spokes = s.spokes ∧ t.engine = { s.engine with line := ⟨up.val + 1, by omega⟩,
                                                         current := some ⟨s.engine.order[up], true, true, 0⟩ }) ∧
      (∀ up : Fin 32, s.engine.line < p.target → up.val = s.engine.line.val → 0 < p.settle.val →
        s.spokes[s.engine.order[up]].state = .live →
        (s.engine.bankB.bind fun k => (s.slots[k].plan[s.engine.order[up]]).expect) = none →
        s.engine.order.toList.Nodup →
        t.spokes = update s.spokes s.engine.order[up] (fun r => { r with settle := max r.settle p.settle.val }) ∧
        t.engine = { s.engine with line := ⟨up.val + 1, by omega⟩,
                                   current := some ⟨s.engine.order[up], true, false, 0⟩ }) ∧
      (∀ down : Fin 32, p.target < s.engine.line → down.val + 1 = s.engine.line.val → down.val ≠ p.target.val →
        s.spokes[s.engine.order[down]].state ≠ .live →
        t.spokes = s.spokes ∧ t.engine = { s.engine with line := ⟨down.val, by omega⟩,
                                                         current := some ⟨s.engine.order[down], false, true, 0⟩ })

/-- What a CUTOVER_STEP does with the spoke it moves (R84, R85), up or down, the last step among them: one that is not LIVE,
or LIVE with settle time 0, completes the step at once; a LIVE one of the class expected starts its settle; a LIVE one
of another class is isolated with CLASS_MISMATCH. A step complete at once tells the engine as EngineTold says. -/
def Sys2Proof.Claims.MovedSpokeSettles : Prop :=
  ∀ (s : State) (p : Params) (i : SpokeId) (n : Fin 32) (up : Bool) (line : Fin 33), s.due.step = true →
    s.engine.state = .stepping → s.engine.params = some p → s.engine.order.toList.Nodup → s.engine.order[n] = i →
    (up = true ∧ s.engine.line < p.target ∧ n.val = s.engine.line.val ∧ line.val = n.val + 1) ∨
      (up = false ∧ p.target < s.engine.line ∧ n.val + 1 = s.engine.line.val ∧ line.val = n.val) →
    let v : State := { s with
      engine := { s.engine with line := line, current := some ⟨i, up, false, 0⟩ }, due := { s.due with step := false } }
    let expected := (if up then s.engine.bankB else s.engine.bankA).bind fun k => (s.slots[k].plan[i]).expect
    (s.spokes[i].state ≠ .live → exec .cutoverStep s = .next (v.tellEngine i)) ∧
    (s.spokes[i].state = .live → expected = none ∨ expected = s.spokes[i].knownClass →
      (p.settle = 0 → exec .cutoverStep s = .next (v.tellEngine i)) ∧
      (p.settle ≠ 0 →
        exec .cutoverStep s = .next (v.mapSpoke i fun r => { r with settle := max r.settle p.settle.val }))) ∧
    (∀ c, s.spokes[i].state = .live → s.spokes[i].hold.isolates = false → expected = some c →
      s.spokes[i].knownClass ≠ some c → ∃ t, exec .cutoverStep s = .next t ∧
        t.spokes = update s.spokes i (fun r =>
          { r with state := .isolated, hold := .isolate .classMismatch, settle := 0 }) ∧
        t.engine = (v.tellEngine i).engine ∧ t.channels[chCutoverEnd] = (v.tellEngine i).channels[chCutoverEnd] ∧
        (s.channels[chIsolation].enabled = true →
          ∃ e ∈ t.channels[chIsolation].list, e.source = some i.val ∧ e.detail = .isolation .classMismatch))

/-- When the engine decides to take a step (R83), from its items at the close of the frame; where it takes none the frames
since the step rise, in HALTING too (log 16). -/
def Sys2Proof.Claims.StepDecision : Prop :=
  ∀ (e : Engine) (p : Params), e.params = some p →
    (e.state ≠ .stepping → e.stepDue = false) ∧ (e.line = p.target → e.stepDue = false) ∧
    (e.state = .stepping → e.line ≠ p.target → e.current = none → e.stepDue = true) ∧
    (∀ c, e.state = .stepping → e.line ≠ p.target → e.current = some c →
      (e.stepDue = true ↔ c.complete = true ∧ p.interval ≤ c.frames + 1)) ∧
    (∀ c, e.stepDue = false → e.current = some c → e.boundary.current = some { c with frames := min 255 (c.frames + 1) })

/-- PERSIST_QUALIFY completes where the spoke's evaluation is due and the kind qualifies at it by PERSIST (R118, R122, R123);
it is the spoke's whole evaluation, one event for all its kinds (R114). -/
def Sys2Proof.Claims.PersistQualifies : Prop :=
  ∀ (i : SpokeId) (k : FaultKind) (s : State), s.due.eval[i] = true → k ≠ .frameErrors →
    s.spokes[i].state ≠ .dark → s.spokes[i].state ≠ .training → (s.settingsOf k).mode = .persist →
    (s.qual i k).state = .armed → s.holds i k = true →
    (s.qual i k).held + 1 = (s.settingsOf k).n * unitFrames (s.settingsOf k).unit →
    ∃ t, exec (.persistQualify i k) s = .next t ∧
      t = { s with due := { s.due with eval := s.due.eval.set i false } }.evaluateSpoke i ∧
      t.qual i k = { s.qual i k with state := .qualified, held := (s.qual i k).held + 1, seen := true } ∧
      (s.channels[kindChannel k].enabled = true → ∃ e ∈ t.channels[kindChannel k].list,
        e.source = some i.val ∧ e.detail = s.conditionDetail i k) ∧
      ((∀ j : FaultKind, (s.settingsOf j).isolate = false) → t.spokes = s.spokes) ∧
      ((s.settingsOf k).isolate = true → t.spokes[i].hold.isolates = true) ∧
      ((s.settingsOf k).isolate = true → s.spokes[i].hold.isolates = false →
        (∀ j : FaultKind, j ≠ k → (s.settingsOf j).isolate = false) → t.spokes[i].hold = .isolate (.fault k)) ∧
      (∀ j : SpokeId, j ≠ i → t.quals[j] = s.quals[j] ∧ t.spokes[j] = s.spokes[j]) ∧
      t = { s with quals := t.quals, spokes := t.spokes, engine := t.engine, channels := t.channels,
                   capture := t.capture, due := t.due }

/-- QUALIFIER_WINDOW_END completes where the spoke's evaluation is due and a FRAME_ERRORS window runs out at it: the record
is IDLE with every number 0 (R119); it is the spoke's whole evaluation (R114). -/
def Sys2Proof.Claims.WindowEndsIdle : Prop :=
  ∀ (i : SpokeId) (s : State), s.due.eval[i] = true → s.spokes[i].state ≠ .dark →
    (s.settingsOf .frameErrors).mode = .count → (s.qual i .frameErrors).window ≤ 1 →
    ((s.qual i .frameErrors).state = .armed ∨ (s.qual i .frameErrors).state = .qualified) →
    ∃ t, exec (.qualifierWindowEnd i .frameErrors) s = .next t ∧
      t = { s with due := { s.due with eval := s.due.eval.set i false } }.evaluateSpoke i ∧
      t.qual i .frameErrors = ⟨.idle, (s.qual i .frameErrors).seen, 0, 0, 0, 0⟩ ∧
      (∀ j : SpokeId, j ≠ i → t.quals[j] = s.quals[j] ∧ t.spokes[j] = s.spokes[j]) ∧
      t = { s with quals := t.quals, spokes := t.spokes, engine := t.engine, channels := t.channels,
                   capture := t.capture, due := t.due }

/-- QUALIFIER_WINDOW_END of a condition kind completes where the spoke's evaluation is due and an ARMED window runs out at it
(R120): an onset at that evaluation opens a new window, with count 1, and qualifies if N is 1; else the record is IDLE
with count 0. In TRAINING the condition is taken as not holding (R114). It is the spoke's whole evaluation. -/
def Sys2Proof.Claims.ConditionWindowEnds : Prop :=
  ∀ (i : SpokeId) (k : FaultKind) (s : State), k ≠ .frameErrors → s.due.eval[i] = true → s.spokes[i].state ≠ .dark →
    (s.settingsOf k).mode = .count → (s.qual i k).state = .armed → (s.qual i k).window ≤ 1 →
    ∃ t, exec (.qualifierWindowEnd i k) s = .next t ∧
      t = { s with due := { s.due with eval := s.due.eval.set i false } }.evaluateSpoke i ∧
      (let holds : Bool := s.holds i k && s.spokes[i].state != .training
       (holds = false ∨ (s.qual i k).seen = true → t.qual i k = ⟨.idle, holds, 0, 0, 0, 0⟩) ∧
       (holds = true → (s.qual i k).seen = false → t.qual i k =
         ⟨if (s.settingsOf k).n = 1 then .qualified else .armed, true, 1,
           (s.settingsOf k).window * unitFrames (s.settingsOf k).unit, 0, 0⟩ ∧
         ((s.settingsOf k).n = 1 → s.channels[kindChannel k].enabled = true →
           ∃ e ∈ t.channels[kindChannel k].list, e.source = some i.val ∧ e.detail = s.conditionDetail i k))) ∧
      (∀ j : SpokeId, j ≠ i → t.quals[j] = s.quals[j] ∧ t.spokes[j] = s.spokes[j]) ∧
      t = { s with quals := t.quals, spokes := t.spokes, engine := t.engine, channels := t.channels,
                   capture := t.capture, due := t.due }

/-- A frame boundary at a FRAME_ERRORS record (R119), outside DARK: in ARMED and in QUALIFIED the window is lowered by 1,
and at 0 the record is IDLE; in IDLE nothing changes. In DARK the spoke is passed over (R114). -/
def Sys2Proof.Claims.ErrorsWindowLowered : Prop :=
  ∀ (s : State) (i : SpokeId), let q := s.qual i .frameErrors; let t := s.evaluate i .frameErrors
    (s.spokes[i].state = .dark ∨ q.state = .idle → t = s) ∧
    (s.spokes[i].state ≠ .dark → q.state = .armed ∨ q.state = .qualified →
      t = { s with quals := t.quals } ∧
      (∀ (j : SpokeId) (k : FaultKind), j ≠ i ∨ k ≠ .frameErrors → t.qual j k = s.qual j k) ∧
      (1 < q.window → t.qual i .frameErrors = { q with window := q.window - 1 }) ∧
      (q.window ≤ 1 → t.qual i .frameErrors = ⟨.idle, q.seen, 0, 0, 0, 0⟩))

/-- The modes of a condition kind (R117, R118, R120, R121): what an evaluation makes of a record, by the condition's holding
and, where it holds, by its onset. -/
def Sys2Proof.Claims.ConditionModes : Prop :=
  ∀ (st : Settings) (q : QualRec),
    let idle : QualRec := ⟨.idle, q.seen, 0, 0, 0, 0⟩
    let opened : QualRec := { q with
      state := if st.n = 1 then .qualified else .armed, count := 1, window := st.window * unitFrames st.unit }
    let holding := evaluateRecord st true false q
    let gone := evaluateRecord st false false q
    (q.state = .idle → gone = ⟨q, false, none⟩ ∧ (q.seen = true → holding = ⟨q, false, none⟩)) ∧
    (q.state = .qualified → st.mode ≠ .duration → holding = ⟨q, false, none⟩ ∧ gone = ⟨idle, false, none⟩) ∧
    (st.mode = .immediate → q.state = .idle → q.seen = false → holding = ⟨{ q with state := .qualified }, true, none⟩) ∧
    (st.mode = .persist →
      (q.state = .idle → q.seen = false → holding = ⟨{ q with state := .armed, held := 0 }, false, none⟩) ∧
      (q.state = .armed → gone = ⟨idle, false, none⟩ ∧
        (q.held + 1 = st.n * unitFrames st.unit →
          holding = ⟨{ q with state := .qualified, held := q.held + 1 }, true, none⟩) ∧
        (q.held + 1 ≠ st.n * unitFrames st.unit → holding = ⟨{ q with held := q.held + 1 }, false, none⟩))) ∧
    (st.mode = .count →
      (q.state = .idle → q.seen = false → holding = ⟨opened, st.n == 1, none⟩) ∧
      (q.state = .armed → q.window ≤ 1 → gone = ⟨idle, false, none⟩ ∧
        (q.seen = true → holding = ⟨idle, false, none⟩) ∧
        (q.seen = false → holding = ⟨{ idle with state := opened.state, count := 1, window := opened.window },
          st.n == 1, none⟩)) ∧
      (q.state = .armed → 1 < q.window → gone = ⟨{ q with window := q.window - 1 }, false, none⟩ ∧
        (q.seen = true → holding = ⟨{ q with window := q.window - 1 }, false, none⟩) ∧
        (q.seen = false → q.count + 1 ≠ st.n →
          holding = ⟨{ q with count := q.count + 1, window := q.window - 1 }, false, none⟩) ∧
        (q.seen = false → q.count + 1 = st.n → holding =
          ⟨{ q with state := .qualified, count := q.count + 1, window := q.window - 1 }, true, none⟩))) ∧
    (st.mode = .duration →
      (q.state = .idle → q.seen = false → holding = ⟨{ q with state := .measuring, measured := 0 }, false, none⟩) ∧
      (q.state = .measuring →
        holding = ⟨{ q with measured := min (65535 * unitFrames st.unit) (q.measured + 1) }, false, none⟩ ∧
        gone = ⟨idle, false, some (min (65535 * unitFrames st.unit) (q.measured + 1))⟩ ∧
        evaluateRecord st false true q = ⟨idle, false, some q.measured⟩))

/-- A condition kind's evaluation (R113, R114, R121, R122) in LIVE, QUIET and ISOLATED, in TRAINING, where it is taken as not
holding, and in DARK, where it is passed over: the record, seen, and the raise of a qualification or of DURATION. -/
def Sys2Proof.Claims.ConditionEvaluated : Prop :=
  ∀ (s : State) (i : SpokeId) (k : FaultKind),
    let t := s.evaluate i k
    (s.spokes[i].state = .dark → t = s) ∧
    (k ≠ .frameErrors → s.spokes[i].state ≠ .dark →
      let holds := s.holds i k && s.spokes[i].state != .training
      let cut := s.spokes[i].state == .training
      let e := evaluateRecord (s.settingsOf k) holds cut (s.qual i k)
      t.quals = (s.setQual i k { e.record with seen := holds }).quals ∧
      (e.qualifies = true → Qualified s t i k (s.conditionDetail i k)) ∧
      (e.qualifies = false → e.measured = none → t = { s with quals := t.quals }) ∧
      (∀ m, e.qualifies = false → e.measured = some m → t = { s with quals := t.quals }.raise chDuration (some i.val)
        (.duration k (m / unitFrames (s.settingsOf k).unit) (s.settingsOf k).unit cut))) ∧
    (s.holds i .nodeSilent = true ↔ s.spokes[i].missed = 3) ∧ (s.holds i .nodeFault = true ↔ s.spokes[i].faults ≠ 0) ∧
    (∀ l, (s.settingsOf .uplinkOverload).level = some l → (s.holds i .uplinkOverload = true ↔ l < s.handed[i])) ∧
    (∀ l, (s.settingsOf .opticalLow).level = some l →
      (s.holds i .opticalLow = true ↔ ∃ o, s.spokes[i].optical = some o ∧ o < l)) ∧
    s.conditionDetail i .uplinkOverload = .energy s.handed[i] ∧
    s.conditionDetail i .nodeSilent = .missedPolls s.spokes[i].missed ∧
    s.conditionDetail i .nodeFault = .faultCodes s.spokes[i].faults ∧
    (∀ o, s.spokes[i].optical = some o → s.conditionDetail i .opticalLow = .optical o)

/-- The Fault Qualifier's taking of a boundary for one spoke (R114): each kind's record becomes that of the kind's own
evaluation. -/
def Sys2Proof.Claims.WholeSpokeEvaluated : Prop :=
  ∀ (s : State) (i : SpokeId) (k : FaultKind), (s.evaluateSpoke i).qual i k = (s.evaluate i k).qual i k

/-- CAPTURE_COLLECTION_END completes where the unit's event is due and a collection in progress ends at it: its result, which
serves a single request that names its target, goes to the buffer, where it replaces an older one that is counted as
missed (R107, R110); the mean and the peak on the scale of R19, or the first 32 samples (R108; a frame with fewer: log
15), COMPLETE where the spoke has stayed LIVE (R109). The count and the decision are parts of the same event (R107), so
the row takes them too (log 24). -/
def Sys2Proof.Claims.CollectionEndsInBuffer : Prop :=
  ∀ (s : State) (c : Collection), s.due.capture = true → s.capture.collection = some c →
    ∃ t r, exec .captureCollectionEnd s = .next t ∧
      t = { s with capture := t.capture, due := { s.due with capture := false } } ∧
      CollectionDecided { s with capture := { s.capture with
        collection := none
        single := if s.capture.single = some c.target then none else s.capture.single
        buffer := some ⟨c.target, c.frame, s.capture.single == some c.target, c.forContinuous, c.live, r⟩
        missed := if s.capture.buffer.isSome then min 255 (s.capture.missed + 1) else s.capture.missed } } t ∧
      (c.target.kind = .power → r = .power
        (min 65535 (c.powerSum * 65535 / (c.samplesSeen * (2 * 32767 ^ 2))))
        (min 65535 (c.powerPeak * 65535 / (2 * 32767 ^ 2))) c.downlink) ∧
      (c.target.kind = .raw → ∃ l, r = .raw l ∧ l.length = 32 ∧
        ∀ n, n < 32 → l[n]? = some ((c.firstSamples[n]?).getD ⟨0, 0⟩))

/-- CAPTURE_COLLECTION_START completes where the unit's event is due and no collection is in progress (R107): the count is
lowered and a collection begins, or a RAW request is cleared, as CollectionDecided gives. Off these occasions neither
row changes anything: after either, the event of the boundary is over and a later CAPTURE waits for the next (log
24). -/
def Sys2Proof.Claims.CollectionBegins : Prop :=
  ∀ s : State,
    (s.due.capture = true → s.capture.collection = none → ∃ t, exec .captureCollectionStart s = .next t ∧
      t = { s with capture := t.capture, due := { s.due with capture := false } } ∧ CollectionDecided s t) ∧
    (s.due.capture = false → exec .captureCollectionStart s = .next s ∧ exec .captureCollectionEnd s = .next s)

/-- What a sample period adds to a collection (R108): the sample received at its position, as received, its power, and,
among the first 32, the sample itself. Samples are an input, and a position that the sample period does not name
delivers a zero sample, by the model's choice (log 5). -/
def Sys2Proof.Claims.CollectionTapsSamples : Prop :=
  ∀ (s : State) (p : SamplePeriod),
    (s.capture.collection = none → (s.samplePeriod p).capture = s.capture) ∧
    (∀ c, s.capture.collection = some c → ∃ x : Sample,
      (s.links[c.target.spoke].locked = true → s.links[c.target.spoke].damaged = 0 →
        x = (p.spokes.lookup (c.target.spoke, c.target.pos)).getD ⟨0, 0⟩) ∧
      (s.links[c.target.spoke].locked = false ∨ 0 < s.links[c.target.spoke].damaged → x = ⟨0, 0⟩) ∧
      (s.samplePeriod p).capture = { s.capture with collection := some { c with
        powerSum := c.powerSum + (x.i.natAbs ^ 2 + x.q.natAbs ^ 2), samplesSeen := c.samplesSeen + 1
        powerPeak := max c.powerPeak (x.i.natAbs ^ 2 + x.q.natAbs ^ 2)
        firstSamples := if c.firstSamples.length < 32 then c.firstSamples ++ [x] else c.firstSamples } })

/-- A departure from LIVE makes the result of a collection on that spoke INCOMPLETE, and of no other (R109): loss of lock,
SPOKE RETRAIN, SPOKE ISOLATE and SPOKE QUIET; an isolation is IsolationSetsHold's. -/
def Sys2Proof.Claims.DepartureMarksCollection : Prop :=
  ∀ (i : SpokeId) (s : State), s.spokes[i].state = .live →
    let marked : Capture := { s.capture with collection := s.capture.collection.map fun c =>
      if c.target.spoke = i then { c with live := false } else c }
    (∃ t, exec (.spokeLinkLoss i) s = .next t ∧ t.capture = marked) ∧
    (∀ (tag b : Byte) (r : State), below 32 b = some i →
      (r.claim (.spokeRetrain tag b) = some s → ∃ t, Answers (.spokeRetrain tag b) r .done [] t ∧ t.capture = marked) ∧
      (s.spokes[i].hold.isolates = false →
        (r.claim (.spokeIsolate tag b) = some s → ∃ t, Answers (.spokeIsolate tag b) r .done [] t ∧ t.capture = marked) ∧
        (r.claim (.spokeQuiet tag b) = some s → ∃ t, Answers (.spokeQuiet tag b) r .done [] t ∧ t.capture = marked)))

/-- The ends of the store engine's operations complete at their boundary, with either read-back (R147, R151 to R153). The
start-up read brings each record that is VALID on an INTACT page to the working copy (R143) and raises nothing; at the
end of any other operation STORE_END is raised on channel 3 with the operation, the page or record and the outcome (a
lock write names none: log 9). The read-back is an operand, the model's choice where the boundary closes without it (log
6). -/
def Obligations.StoreOperationsEnd : Prop :=
  ∀ s : State, s.store.left = 0 →
    (s.store.engine = .reading → ∃ t, exec .startupReadEnd s = .next t ∧ t = { s with store := t.store } ∧
      t.store.engine = .idle ∧ t.store.records = s.store.records ∧ t.store.intact = s.store.intact ∧
      ∀ r : RecordId,
        (∀ c, s.store.records[r] = .valid c → s.store.intact[pageOf r] = true → t.store.working[r] = some c) ∧
        (s.store.records[r] = .blank ∨ s.store.records[r] = .spoiled ∨ s.store.intact[pageOf r] = false →
          t.store.working[r] = none)) ∧
    (∀ (p : PageId) (good : Bool), s.store.engine = .erasing p → ∃ t, exec (.storeEraseEnd good) s = .next t ∧
      t = { s with store := t.store, channels := t.channels } ∧ t.store.engine = .idle ∧ t.store.intact[p] = good ∧
      t.store.withdrawing[p] = false ∧ t.store.locked = s.store.locked ∧
      t.channels = (s.raise 3 none (.storeEnd 1 p.val (!good))).channels ∧
      (∀ q : PageId, q ≠ p → t.store.intact[q] = s.store.intact[q] ∧ t.store.withdrawing[q] = s.store.withdrawing[q]) ∧
      (∀ r : RecordId, pageOf r = p → t.store.records[r] = (if good then .blank else .spoiled) ∧
        t.store.working[r] = none) ∧
      (∀ r : RecordId, pageOf r ≠ p → t.store.records[r] = s.store.records[r] ∧
        t.store.working[r] = s.store.working[r])) ∧
    (∀ (r : RecordId) (c : Contents) (good : Bool), s.store.engine = .writing r c →
      ∃ t, exec (.storeWriteEnd good) s = .next t ∧ t = { s with store := t.store, channels := t.channels } ∧
        t.store.engine = .idle ∧ t.store.records[r] = (if good then .valid c else .spoiled) ∧
        t.store.working[r] = (if good then some c else s.store.working[r]) ∧ t.store.intact = s.store.intact ∧
        t.store.withdrawing = s.store.withdrawing ∧ t.store.locked = s.store.locked ∧
        t.channels = (s.raise 3 none (.storeEnd 2 r.val (!good))).channels ∧
        (∀ q : RecordId, q ≠ r → t.store.records[q] = s.store.records[q] ∧ t.store.working[q] = s.store.working[q])) ∧
    (s.store.engine = .locking → ∃ t, exec .storeLockEnd s = .next t ∧
      t = { s with store := { s.store with engine := .idle }, channels := t.channels } ∧
      t.channels = (s.raise 3 none (.storeEnd 3 0xFF false)).channels)

/-! ## Events of the Management Lane -/

/-- ASSEMBLY_ABANDON completes where the boundary found the assembly starved (R156). -/
def Sys2Proof.Claims.StarvedAssemblyAbandoned : Prop :=
  ∀ s : State, s.due.abandon = true →
    exec .assemblyAbandon s =
      .next { s with due := { s.due with abandon := false }, lane := { s.lane with assembly := none } }

/-- INBOUND_BYTE completes on an UP management port within the frame's 256 bytes (R155, R156), a starved assembly dropped
first. Outside an assembly only a lead byte counts; the byte after it is the length, and one outside 6 to 64 ends the
assembly; each further byte, a lead byte among them, is one of the message's, and the one that reaches the length
completes it. -/
def Sys2Proof.Claims.InboundByteAssembles : Prop :=
  ∀ (b : Byte) (s : State), s.mgmtUp = true → s.lane.received < 256 →
    let begun : Option (List Byte) := if s.due.abandon then none else s.lane.assembly
    let heard (a : Option (List Byte)) (fed : Bool) : State := { s with
      due := { s.due with abandon := false }
      lane := { s.lane with received := s.lane.received + 1, assembly := a, fed := fed } }
    (begun = none → b ≠ 0xC3#8 → exec (.inboundByte b) s = .next (heard none s.lane.fed)) ∧
    (begun = none → b = 0xC3#8 → exec (.inboundByte b) s = .next (heard (some [0xC3#8]) true)) ∧
    (∀ lead, begun = some [lead] → (b.toNat < 6 ∨ 64 < b.toNat) →
      exec (.inboundByte b) s = .next (heard none s.lane.fed)) ∧
    (∀ lead, begun = some [lead] → 6 ≤ b.toNat → b.toNat ≤ 64 →
      exec (.inboundByte b) s = .next (heard (some [lead, b]) true)) ∧
    (∀ lead len rest, begun = some (lead :: len :: rest) → rest.length + 3 < len.toNat →
      exec (.inboundByte b) s = .next (heard (some (lead :: len :: rest ++ [b])) true)) ∧
    (∀ taken, begun = some taken → WholeMessage (taken ++ [b]) →
      ∃ t, exec (.inboundByte b) s = .next t ∧ MessageTaken (taken ++ [b]) (heard none s.lane.fed) t)

/-- COMMAND_COMPLETE completes with the bytes still missing of a message, all of them where none has arrived or a starved
assembly is dropped (R156 to R158): the message is discarded unanswered, taken as a RESYNC, queued, discarded with the
latch set and INTAKE_OVERRUN raised with its tag, or discarded and counted. That the row brings the bytes still missing
is the model's choice (log 18). -/
def Sys2Proof.Claims.MessageSorted : Prop :=
  ∀ (bytes : List Byte) (s : State),
    let begun : List Byte := if s.due.abandon then [] else s.lane.assembly.getD []
    bytes ≠ [] → WholeMessage (begun ++ bytes) → s.mgmtUp = true → s.lane.received + bytes.length ≤ 256 →
    ∃ t, exec (.commandComplete bytes) s = .next t ∧ MessageTaken (begun ++ bytes) { s with
      due := { s.due with abandon := false }
      lane := { s.lane with received := s.lane.received + bytes.length, assembly := none,
                            fed := s.lane.fed || decide (2 ≤ bytes.length) } } t

/-- The message of every management command is a whole message (R167, R169). -/
def Sys2Proof.Claims.CommandsAreWhole : Prop :=
  ∀ i : Instr, i.wf = true → i.header.isSome = true → WholeMessage i.messageBytes

/-- COMMAND_RESPONSE_TAKEN and RESYNC_RESPONSE_TAKEN complete where their response waits, a place is free and the port
is UP: the response enters at the tail (R160, R163). That the taking is a step of its own is the model's choice (log
17). -/
def Sys2Proof.Claims.WaitingResponsesTaken : Prop :=
  ∀ (s : State) (m : Message), s.mgmtUp = true → s.lane.outbound.length < 8 →
    (s.lane.held = some m → s.lane.holder = none →
      exec .commandResponseTaken s = .next { s with lane := { s.lane with outbound := s.lane.outbound ++ [m],
                                                                           held := none } }) ∧
    (s.lane.holder = some m →
      exec .resyncResponseTaken s = .next { s with lane := { s.lane with outbound := s.lane.outbound ++ [m],
                                                                         holder := none } })

/-- MESSAGE_LEAVES completes where the frame's 256 bytes reach the oldest message's end: it leaves the queue and its
place is free (R162). HUB_RESET_EFFECT completes where that message is the response of an executed HUB RESET: the
reset takes effect (R166). That bytes leave at the step of the whole message, within the frame's 256, is the model's
choice (log 10, log 18). -/
def Sys2Proof.Claims.OldestMessageLeaves : Prop :=
  ∀ (s : State) (m : Message) (rest : List Message), s.mgmtUp = true → s.lane.outbound = m :: rest →
    s.lane.sent + (m.bytes.length - s.lane.headSent) ≤ 256 →
    (s.lane.resetAtHead = false → ∃ t, exec .messageLeaves s = .next t ∧ t = { s with lane := t.lane } ∧
      t.lane.outbound = rest ∧ (s.lane.outbound.length ≤ 8 → t.lane.free = s.lane.free + 1) ∧
      t.lane.intake = s.lane.intake ∧ t.lane.wire = m.bytes) ∧
    (s.lane.resetAtHead = true → exec .hubResetEffect s = .next (s.mapLane (·.leave)).hubReset)

/-- A response as it is sent (R167, R168): kind 2 with the command's code and tag, the status by its code, and the body. -/
def Sys2Proof.Claims.ResponseLaidOut : Prop :=
  ∀ (tag : Byte) (code : BitVec 6) (body : List Byte),
    ∀ x ∈ [(Status.done, 0x00#8), (.started, 0x01#8), (.busy, 0x02#8), (.wrongState, 0x03#8), (.inUse, 0x04#8),
      (.range, 0x05#8), (.entitlement, 0x06#8), (.locked, 0x07#8), (.torn, 0x08#8), (.noPointer, 0x09#8),
      (.notInService, 0x0A#8), (.unknown, 0x0B#8), (.malformed, 0x0C#8)],
    let sent : List Byte := [0xC3, BitVec.ofNat 8 (body.length + 7), (2#2 ++ code : BitVec 8), tag, x.2] ++ body
    (Message.response tag code x.1 body).bytes = sent ++ halfBytes (crc sent)

/-- An ALARM notice as it is sent (R168, R172): code 1, tag 0, the channel, part and parts, and eight bytes an entry: the
source or 0xFF, the first frame, the count and four detail bytes. -/
def Sys2Proof.Claims.AlarmNoticeLaidOut : Prop :=
  ∀ (ch : ChannelId) (part parts : Nat) (entries : List SourceEntry), 1 ≤ part → part ≤ parts → parts ≤ 6 →
    let sent : List Byte := [0xC3, BitVec.ofNat 8 (8 + 8 * entries.length), 0xC1, 0x00, BitVec.ofNat 8 ch.val,
        (BitVec.ofNat 4 part ++ BitVec.ofNat 4 parts : BitVec 8)] ++
      entries.flatMap fun e =>
        BitVec.ofNat 8 (e.source.getD 0xFF) :: halfBytes e.first ++ BitVec.ofNat 8 e.count :: e.detail.bytes
    (Message.alarm ch part parts entries).bytes = sent ++ halfBytes (crc sent)

/-- The four detail bytes of each channel (R172); of a lock write, which names no page or record, log 9. -/
def Sys2Proof.Claims.DetailLaidOut : Prop :=
  Detail.bytes .none = [0, 0, 0, 0] ∧ Detail.bytes .silentPort = [1, 0, 0, 0] ∧ Detail.bytes .clip = [2, 0, 0, 0] ∧
  (∀ x ∈ [(Reason.admin, 0#8), (.noHello, 2#8), (.classMismatch, 3#8), (.classUnknown, 4#8)],
    Detail.bytes (.isolation x.1) = [x.2, 0xFF, 0, 0]) ∧
  (∀ x ∈ [(FaultKind.frameErrors, 0#8), (.uplinkOverload, 1#8), (.nodeSilent, 2#8), (.nodeFault, 3#8), (.opticalLow, 4#8)],
    Detail.bytes (.isolation (.fault x.1)) = [1, x.2, 0, 0] ∧
    ∀ (len : Nat) (u : UnitCode) (cut : Bool), Detail.bytes (.duration x.1 len u cut) =
      x.2 :: halfBytes (BitVec.ofNat 16 len) ++ [(BitVec.ofBool cut ++ 0#5 ++ BitVec.ofNat 2 u.val : BitVec 8)]) ∧
  (∀ x ∈ [(ReportKind.hello, 1#8), (.health, 2#8), (.fault, 3#8), (.clear, 4#8), (.unreadable, 0x0F#8)],
    Detail.bytes (.overrun x.1) = [x.2, 0, 0, 0]) ∧
  (∀ load : Nat, Detail.bytes (.crowdLow load) = triBytes (BitVec.ofNat 24 load) ++ [0] ∧
    ∀ x ∈ [(ReliefState.none, 0#8), (.fired, 1#8), (.busy, 2#8), (.unbound, 3#8), (.atTarget, 4#8)],
      Detail.bytes (.crowdHigh load x.1) = triBytes (BitVec.ofNat 24 load) ++ [x.2]) ∧
  (∀ (halted folded : Bool) (line : Fin 33) (g : GroupId),
    Detail.bytes (.cutoverEnd halted line folded (.relief g)) =
      [if halted then 1 else 0, BitVec.ofNat 8 line.val, if folded then 1 else 0, BitVec.ofNat 8 g.val] ∧
    Detail.bytes (.cutoverEnd halted line folded .command) =
      [if halted then 1 else 0, BitVec.ofNat 8 line.val, if folded then 1 else 0, 0x80]) ∧
  (∀ (op place : Nat) (failed : Bool), Detail.bytes (.storeEnd op place failed) =
    [BitVec.ofNat 8 op, BitVec.ofNat 8 place, if failed then 1 else 0, 0]) ∧
  (∀ n : Nat, Detail.bytes (.energy n) = halfBytes (BitVec.ofNat 16 n) ++ [0, 0] ∧
    Detail.bytes (.missedPolls n) = [BitVec.ofNat 8 n, 0, 0, 0] ∧ Detail.bytes (.errors n) = [BitVec.ofNat 8 n, 0, 0, 0]) ∧
  (∀ level : Int, Detail.bytes (.optical level) = halfBytes (BitVec.ofInt 16 level) ++ [0, 0]) ∧
  (∀ tag : Byte, Detail.bytes (.discardedTag tag) = [tag, 0, 0, 0]) ∧
  (∀ codes : BitVec 5, Detail.bytes (.faultCodes codes) = [(0#3 ++ codes : BitVec 8), 0, 0, 0])

/-- A CAPTURE notice as it is sent (R168, R172): code 2, tag 0, the spoke, the flags (INCOMPLETE, served, RAW, position), the
frame at which the collection began, the missed count and the POWER or RAW part; -128 stands for ZERO. -/
def Sys2Proof.Claims.CaptureNoticeLaidOut : Prop :=
  ∀ (r : Result) (missed : Nat),
    let flags : Byte := (0#2 ++ BitVec.ofBool (!r.complete) ++ BitVec.ofBool r.servedContinuous ++
      BitVec.ofBool r.servedSingle ++ BitVec.ofBool (r.target.kind == .raw) ++ BitVec.ofNat 2 r.target.pos.val : BitVec 8)
    let sent (len : Byte) (measured : List Byte) : List Byte :=
      [0xC3, len, 0xC2, 0x00, BitVec.ofNat 8 r.target.spoke.val, flags] ++ halfBytes r.frame ++
        BitVec.ofNat 8 missed :: measured
    (∀ mean peak level, r.measured = .power mean peak level →
      let m := sent 16 (halfBytes (BitVec.ofNat 16 mean) ++ halfBytes (BitVec.ofNat 16 peak) ++
        [match level with | some l => BitVec.ofInt 8 l | none => 0x80])
      (Message.capture r missed).bytes = m ++ halfBytes (crc m)) ∧
    (∀ samples, r.measured = .raw samples → samples.length = 32 →
      let m := sent 60 (rawPart samples)
      (Message.capture r missed).bytes = m ++ halfBytes (crc m))

/-- The RAW part of 32 samples (R173): the least shift, up to 10, that brings every component, divided by 2 to it and rounded
toward minus infinity, to -32 to 31; then 48 bytes of six-bit quotients in sample order, in-phase before quadrature. -/
def Sys2Proof.Claims.RawSamplesPacked : Prop :=
  ∀ samples : List Sample, samples.length = 32 →
    (∀ x ∈ samples, -32768 ≤ x.i ∧ x.i ≤ 32767 ∧ -32768 ≤ x.q ∧ x.q ≤ 32767) →
    let within (n : Nat) : Prop := ∀ x ∈ samples, ∀ z ∈ [x.i, x.q], -32 * 2 ^ n ≤ z ∧ z < 32 * 2 ^ n
    ∃ (shift : Nat) (packed : List Byte), rawPart samples = BitVec.ofNat 8 shift :: packed ∧ packed.length = 48 ∧
      shift ≤ 10 ∧ within shift ∧ (∀ n, n < shift → ¬within n) ∧
      let scaled (z : Int) : BitVec 6 := BitVec.ofInt 6 (z.fdiv (2 ^ shift))
      ∀ n x y, samples[2 * n]? = some x → samples[2 * n + 1]? = some y →
        PackedAt packed n (scaled x.i ++ scaled x.q ++ scaled y.i ++ scaled y.q)

/-- What HUB RESET leaves when it takes effect (R166): the frame number, the reference, the carrier ports, the
management port's number and the store are kept; every other block takes its reset values, and of the lane only what the
frame has received and sent is kept. That every link is unlocked at once is the model's choice (log 13). -/
def Sys2Proof.Claims.HubResetKeepsStore : Prop :=
  ∀ s : State,
    s.hubReset = { State.reset with
      pending := s.pending, arriving := s.arriving, freeCount := s.freeCount, frame := s.frame,
      reference := s.reference, markerSkipped := s.markerSkipped, mgmtPort := s.mgmtPort, ports := s.ports,
      store := s.store, lane := s.hubReset.lane } ∧
    s.hubReset.frame = s.frame ∧ s.hubReset.reference = s.reference ∧ s.hubReset.ports = s.ports ∧
    s.hubReset.mgmtPort = s.mgmtPort ∧ s.hubReset.store = s.store ∧ s.hubReset.feeds = State.reset.feeds ∧
    s.hubReset.spokes = State.reset.spokes ∧ s.hubReset.links = State.reset.links ∧
    s.hubReset.slots = State.reset.slots ∧ s.hubReset.engine = .reset ∧ s.hubReset.fabric = .reset ∧
    s.hubReset.settings = Settings.defaults ∧ s.hubReset.channels = State.reset.channels ∧
    s.hubReset.tracking = true ∧ s.hubReset.capture = .reset ∧ s.hubReset.restoreSettle = 8 ∧
    s.hubReset.lane = { Lane.reset with received := s.lane.received, sent := s.lane.sent, wire := s.lane.wire } ∧
    s.hubReset.lane.assembly = none ∧ s.hubReset.lane.intake = [] ∧ s.hubReset.lane.overrun = false ∧
    s.hubReset.lane.firstTag = none ∧ s.hubReset.lane.discards = 0 ∧ s.hubReset.lane.holder = none ∧
    s.hubReset.lane.held = none ∧ s.hubReset.lane.resetArmed = false ∧ s.hubReset.lane.outbound = [] ∧
    s.hubReset.lane.turn = .alarm

/-- ALARM_PRESENTATION completes where a channel is chosen and may be presented: its list goes out whole, in parts of up to six
entries, its list is empty, and with tracking on it is in service (R132, R133). CAPTURE_NOTICE_ENQUEUE completes where a
result waits, three places are free and the turn allows: the buffer is empty and nothing is missed (R110). -/
def Sys2Proof.Claims.NoticesEnter : Prop :=
  ∀ s : State, s.mgmtUp = true → s.lane.holder = none → s.lane.held = none →
    (∀ c : ChannelId, s.chosen = some c → partsOf s.channels[c].list + 2 ≤ 8 - s.lane.outbound.length →
      (s.lane.turn = .alarm ∨ s.capture.buffer = none) → ∃ t, exec .alarmPresentation s = .next t ∧
        t = { s with lane := t.lane, channels := t.channels } ∧
        t.lane.outbound = s.lane.outbound ++ noticeMessages c s.channels[c].list ∧ t.lane.turn = .capture ∧
        entriesOf c (noticeMessages c s.channels[c].list) = s.channels[c].list ∧
        t.channels = update s.channels c (fun ch =>
          { ch with list := [], inService := s.tracking || ch.inService })) ∧
    (∀ r, s.capture.buffer = some r → 3 ≤ 8 - s.lane.outbound.length → (s.lane.turn = .capture ∨ s.chosen = none) →
      exec .captureNoticeEnqueue s = .next { s with
        lane := { s.lane with outbound := s.lane.outbound ++ [.capture r s.capture.missed], turn := .alarm }
        capture := { s.capture with buffer := none, missed := 0 } })

/-- The chosen channel (R132): pending, not masked and, while tracking is on, above every channel in service; of those the
one with the highest number. -/
def Sys2Proof.Claims.ChannelChosen : Prop :=
  ∀ s : State,
    let candidate (c : ChannelId) : Prop := s.channels[c].list ≠ [] ∧ s.channels[c].masked = false ∧
      (s.tracking = true → ∀ d : ChannelId, s.channels[d].inService = true → d < c)
    (∀ c : ChannelId, s.chosen = some c ↔ candidate c ∧ ∀ d : ChannelId, candidate d → d ≤ c) ∧
    (s.chosen = none ↔ ∀ c : ChannelId, ¬candidate c)

/-- The notice messages of a list (R133): as many as its entries divided by 6 and rounded up, numbered from 1, part p with
the p-th six entries, or what is left of them. -/
def Sys2Proof.Claims.NoticeParts : Prop :=
  ∀ (c : ChannelId) (l : List SourceEntry), let n := (l.length + 5) / 6
    partsOf l = n ∧ (noticeMessages c l).length = n ∧
    (∀ p, p < n → (noticeMessages c l)[p]? = some (.alarm c (p + 1) n ((l.drop (6 * p)).take 6)))

/-! ## Taking and answering a command -/

/-- How a management command comes to execute (R155, R156, R158, R160): at the head of the intake queue it leaves it;
arriving at an empty queue it is taken at once, its bytes counted and a starved assembly abandoned; arriving behind
others it is queued, or discarded as R158 gives; and at the head it waits while the Command Unit holds a response or
a HUB RESET has executed (R166). That a row of a command stands for its arrival or its taking is log 8. -/
def Sys2Proof.Claims.CommandTakenInOrder : Prop :=
  ∀ (i : Instr) (s : State), s.lane.held = none → s.lane.resetArmed = false → s.store.engine ≠ .reading →
    (∀ rest, s.lane.intake = i :: rest → s.claim i = some { s with lane := { s.lane with intake := rest } }) ∧
    (s.mgmtUp = true → i.messageBytes.length ≤ 64 → s.lane.received + i.messageBytes.length ≤ 256 →
      s.lane.assembly = none ∨ s.due.abandon = true →
      let u := { s with
        lane := { s.lane with received := s.lane.received + i.messageBytes.length, assembly := none }
        due := { s.due with abandon := false } }
      (s.lane.intake = [] → s.lane.overrun = false → s.claim i = some u) ∧
      (∀ j rest act, s.lane.intake = j :: rest → j ≠ i → s.command i act = u.offer i)) ∧
    (∀ m act rest, s.lane.intake = i :: rest → ({ s with lane := { s.lane with held := some m } }).command i act =
      { s with lane := { s.lane with held := some m } }) ∧
    (∀ act rest, s.lane.intake = i :: rest → ({ s with lane := { s.lane with resetArmed := true } }).command i act =
      { s with lane := { s.lane with resetArmed := true } })

/-- During the start-up read HUB STATUS and STORE READ are taken, and every other command is left waiting (R160); that a
HUB STATUS or a STORE READ marked MALFORMED is among those left waiting is the model's choice (log 30). -/
def Sys2Proof.Claims.StartupHoldsCommands : Prop :=
  ∀ (i : Instr) (s : State), s.store.engine = .reading →
    (runsAtStartup i = false → s.claim i = none) ∧
    (∀ rest, runsAtStartup i = true → s.lane.held = none → s.lane.resetArmed = false → s.lane.intake = i :: rest →
      (s.claim i).isSome = true)

/-- A response is made (R160, R163, R164): dropped while the management port is DOWN; else the free places go to a RESYNC
response that waits and then to it, and it is held where none is left for it. -/
def Sys2Proof.Claims.ResponseDelivered : Prop :=
  ∀ (s : State) (m : Message), s.lane.held = none →
    (s.mgmtUp = false → s.deliver m = s) ∧
    (s.mgmtUp = true → let free : Nat := 8 - s.lane.outbound.length
      s.deliver m = { s with lane := { s.lane with
        outbound := s.lane.outbound ++ (s.lane.holder.toList ++ [m]).take free
        holder := if 0 < free then none else s.lane.holder
        held := if s.lane.holder.toList.length < free then none else some m } })

/-- COMMAND_UNKNOWN and COMMAND_MALFORMED complete: answered UNKNOWN and MALFORMED, and no other block is touched. -/
def Sys2Proof.Claims.MarkedCommandsAnswered : Prop :=
  ∀ (tag : Byte) (code : BitVec 6) (s t : State),
    (isCommandCode code = false → s.claim (.commandUnknown tag code) = some t →
      Answers (.commandUnknown tag code) s .unknown [] t) ∧
    (isCommandCode code = true → s.claim (.commandMalformed tag code) = some t →
      Answers (.commandMalformed tag code) s .malformed [] t)

/-- The reading commands complete with operands in range: each is answered DONE with its items, and changes nothing.
The places of absent items and the codes follow section 10.3 as logs 9, 20, 26, 27 and 32 read it; six entries of ALARM
READ make 63 bytes (log 28). -/
def Sys2Proof.Claims.ReadsChangeNothing : Prop :=
  ∀ (tag a b : Byte) (bs : List Byte) (s t : State),
    (∀ f, below 24 a = some f → s.claim (.feedRead tag a) = some t → Answers (.feedRead tag a) s .done
      (u8 f ++ u8 t.feeds[f].state.code ++ u8 t.feeds[f].operator ++ u8 t.feeds[f].band ++ u8 t.feeds[f].level ++
        u8 (if t.ports[portOf f] then 0 else 1) ++
        opt8 (t.engine.bankA.map fun k => t.slots[k].plan.fanout f) ++
        opt8 (t.engine.bankB.map fun k => t.slots[k].plan.fanout f)) t) ∧
    (∀ i, below 32 a = some i → s.claim (.spokeRead tag a) = some t →
      Answers (.spokeRead tag a) s .done (u8 i ++ u8 (if t.links[i].locked then 0 else 1) ++ u8 t.spokes[i].state.code ++
        t.spokes[i].hold.bytes ++ opt8 (t.spokes[i].knownClass.map (·.val)) ++ u8 t.spokes[i].elapsed ++
        u8 t.spokes[i].settle ++ u16 t.spokes[i].nextPoll ++ flag t.spokes[i].outstanding ++ u8 t.spokes[i].missed ++
        u8 t.spokes[i].faults.toNat ++ presentI8 t.spokes[i].temperature ++ presentI16 t.spokes[i].optical ++
        opt8 (t.spokes[i].supply.map Supply.code) ++ u8 t.spokes[i].queue.length ++
        t.spokes[i].queue.flatMap (fun r => u8 r.kind.code ++ flag r.isDamaged) ++ flag t.spokes[i].assembly.isSome ++
        flag t.spokes[i].overrun ++ opt8 (t.spokes[i].firstDiscarded.map ReportKind.code) ++
        flag (t.engine.followsB i) ++ u8 (t.engine.sweepPos i) ++ u8 t.restoreSettle ++ u16 t.pollPeriod) t) ∧
    (∀ k i, below 8 a = some k → below 32 b = some i → s.claim (.planRead tag a b) = some t →
      Answers (.planRead tag a b) s .done (u8 k ++ u8 t.slots[k].state.code ++ u8 (t.engine.bindingCode k) ++
        failureBytes t.slots[k].failure ++ u8 i ++ opt8 (t.slots[k].plan[i].expect.map (·.val)) ++
        t.slots[k].plan[i].cells.toList.flatMap cellBytes ++ t.pointerAt k) t) ∧
    (∀ g, below 8 a = some g → s.claim (.watchRead tag a) = some t → Answers (.watchRead tag a) s .done
      (u8 g ++ wordBytes t.groups[g].members ++ u24 t.groups[g].high ++ u24 t.groups[g].low ++ u8 t.groups[g].dwell ++
        reliefBytes t.groups[g].relief ++ u8 t.groups[g].state.code ++ u8 t.groups[g].remaining ++
        u8 t.groups[g].reliefState.code ++ u24 (t.load g) ++ u8 (t.staleMembers g)) t) ∧
    (∀ l, 1 ≤ bs.length → bs.length ≤ 32 → readAll (below 32) bs = some l → s.claim (.meterRead tag bs) = some t →
      Answers (.meterRead tag bs) s .done (meterBody (l.map fun i : SpokeId => t.meters[i])) t) ∧
    (∀ k i, faultKindOf a = some k → below 32 b = some i → s.claim (.qualifyRead tag a b) = some t →
      Answers (.qualifyRead tag a b) s .done (u8 (faultKindCode k) ++ u8 (t.settingsOf k).mode.code ++
        u8 (t.settingsOf k).n ++ u8 (t.settingsOf k).window ++ u8 (t.settingsOf k).unit ++
        flag (t.settingsOf k).isolate ++ levelBytes (t.settingsOf k).level ++ u8 i ++ u8 (t.qual i k).state.code ++
        seenBytes k (t.qual i k) ++ u8 (t.qual i k).count ++ u16 (t.qual i k).window ++ u16 (t.qual i k).held ++
        u24 (t.qual i k).measured ++ u16 ((t.qual i k).measured / unitFrames (t.settingsOf k).unit)) t) ∧
    (∀ c i, below 16 a = some c → below 32 b = some i → s.claim (.alarmRead tag a b) = some t →
      Answers (.alarmRead tag a b) s .done (u8 c ++ flag t.channels[c].enabled ++ flag t.channels[c].masked ++
        flag t.channels[c].pending ++ flag t.channels[c].inService ++ flag t.tracking ++
        u8 t.channels[c].list.length ++ u8 i ++
        ((t.channels[c].list.drop i.val).take 6).flatMap SourceEntry.bytes) t) ∧
    (∀ r, below 16 a = some r → s.claim (.storeRead tag a) = some t →
      ∃ contents, Answers (.storeRead tag a) s .done (u8 r ++ u8 t.store.records[r].code ++ contents ++
        flag (!t.store.intact[pageOf r]) ++ flag (t.store.lookup r).isSome ++ flag t.store.withdrawing[pageOf r] ++
        flag t.store.locked ++ u8 t.store.engine.code ++ u8 t.store.engine.place) t ∧
        (∀ c, t.store.records[r] = .valid c → contents = flag true ++ c.bytes) ∧
        (t.store.records[r] = .blank ∨ t.store.records[r] = .spoiled → contents = [0, 0, 0, 0, 0])) ∧
    (s.claim (.cutoverRead tag) = some t → Answers (.cutoverRead tag) s .done (u8 t.engine.state.code ++
      u8 t.engine.line ++ bindingBytes t.engine.bankA ++ bindingBytes t.engine.bankB ++
      opt8 (t.engine.params.map (·.target.val)) ++ present8 (t.engine.params.map (·.interval)) ++
      opt8 (t.engine.params.map (·.settle.val)) ++ opt8 (t.engine.params.map (·.fold.toNat)) ++
      opt8 (t.engine.params.map fun p => match p.origin with | .command => 0x80 | .relief g => g.val) ++
      opt8 (t.engine.current.map (·.spoke.val)) ++ opt8 (t.engine.current.map fun c => (!c.up).toNat) ++
      opt8 (t.engine.current.map (·.complete.toNat)) ++
      opt8 (t.engine.current.map fun c => t.spokes[c.spoke].settle) ++
      u16 (if t.engine.state ≠ .stepping then 0xFFFF else
        match t.engine.current with
        | none => 0
        | some c => if c.complete then (t.engine.params.map (·.interval)).getD 0 - c.frames else 0xFFFE) ++
      u8 t.restoreSettle) t) ∧
    (s.claim (.hubStatus tag) = some t → Answers (.hubStatus tag) s .done
      ([0x04, 0x60, 1] ++ halfBytes t.frame ++ u8 t.reference.code ++ u8 t.mgmtPort ++ flag t.store.locked ++
        u8 t.store.engine.code ++ u8 t.engine.state.code ++ u8 t.engine.line ++ bindingBytes t.engine.bankA ++
        bindingBytes t.engine.bankB ++ flag t.lane.overrun ++ present8 (t.lane.firstTag.map (·.toNat)) ++
        u8 t.lane.discards ++ u8 (8 - t.lane.outbound.length) ++ flag t.lane.assembly.isSome ++
        flag (t.store.engine != .reading)) t)

/-- An operand that names a feed, spoke, slot, bank, cell position, group, channel, kind, page or record outside its range
is answered RANGE and changes nothing (R170), whichever command carries it; so is one entry out of range in a list. -/
def Obligations.OutOfRangeRefused : Prop :=
  ∀ (tag a b c : Byte) (s t : State),
    (∀ st op bd lv : Byte, ∀ i ∈ [Instr.feedRead tag a, .feedSet tag a st op bd lv], 24 ≤ a.toNat →
      s.claim i = some t → Answers i s .range [] t) ∧
    (∀ i ∈ [Instr.spokeIsolate tag a, .spokeRestore tag a, .spokeQuiet tag a, .spokeWake tag a, .spokeRetrain tag a,
        .spokeRearm tag a, .spokeRead tag a], 32 ≤ a.toNat → s.claim i = some t → Answers i s .range [] t) ∧
    (∀ i ∈ [Instr.planOpen tag a, .planEdit tag a, .planClose tag a, .planDrop tag a, .watchOff tag a, .watchRead tag a],
      8 ≤ a.toNat → s.claim i = some t → Answers i s .range [] t) ∧
    (∀ (es : List CellEntry) (ps : List ExpectPair), 8 ≤ a.toNat →
      (1 ≤ es.length → es.length ≤ 8 → s.claim (.planCell tag a es) = some t →
        Answers (.planCell tag a es) s .range [] t) ∧
      (1 ≤ ps.length → ps.length ≤ 16 → s.claim (.planExpect tag a ps) = some t →
        Answers (.planExpect tag a ps) s .range [] t)) ∧
    (∀ (es : List CellEntry) (ps : List ExpectPair),
      (1 ≤ es.length → es.length ≤ 8 → (∃ e ∈ es, e.place.msb = false ∧ 24 ≤ e.feed.toNat) →
        s.claim (.planCell tag a es) = some t → Answers (.planCell tag a es) s .range [] t) ∧
      (1 ≤ ps.length → ps.length ≤ 16 → (∃ p ∈ ps, 32 ≤ p.spoke.toNat) → s.claim (.planExpect tag a ps) = some t →
        Answers (.planExpect tag a ps) s .range [] t)) ∧
    (8 ≤ a.toNat ∨ 32 ≤ b.toNat → s.claim (.planRead tag a b) = some t → Answers (.planRead tag a b) s .range [] t) ∧
    (8 ≤ a.toNat ∨ 32 ≤ b.toNat ∨ 4 ≤ c.toNat → s.claim (.trimPoint tag a b c) = some t →
      Answers (.trimPoint tag a b c) s .range [] t) ∧
    (2 ≤ a.toNat ∨ 8 ≤ b.toNat → s.claim (.bankBind tag a b) = some t → Answers (.bankBind tag a b) s .range [] t) ∧
    (2 ≤ a.toNat → s.claim (.bankRelease tag a) = some t → Answers (.bankRelease tag a) s .range [] t) ∧
    (∀ l : List Byte, l.length = 32 → (∃ x ∈ l, 32 ≤ x.toNat) → s.claim (.sweepOrder tag l) = some t →
      Answers (.sweepOrder tag l) s .range [] t) ∧
    (∀ (d : Byte) (iv : Half), 32 ≤ a.toNat ∨ 4 ≤ b.toNat → s.claim (.capture tag a b c d iv) = some t →
      Answers (.capture tag a b c d iv) s .range [] t) ∧
    (∀ (d e f : Byte) (lv : Half), 5 ≤ a.toNat → s.claim (.qualify tag a b c d e f lv) = some t →
      Answers (.qualify tag a b c d e f lv) s .range [] t) ∧
    (16 ≤ a.toNat → s.claim (.alarmDone tag a) = some t → Answers (.alarmDone tag a) s .range [] t) ∧
    (∀ d e : Byte, 16 ≤ a.toNat → s.claim (.storeWrite tag a b c d e) = some t →
      Answers (.storeWrite tag a b c d e) s .range [] t) ∧
    (∀ (m : BitVec 32) (h l : BitVec 24) (d p tg iv st : Byte), 8 ≤ a.toNat →
      s.claim (.watchSet tag a m h l d p tg iv st) = some t → Answers (.watchSet tag a m h l d p tg iv st) s .range [] t) ∧
    (∀ l : List Byte, 1 ≤ l.length → l.length ≤ 32 → readAll (below 32) l = none → s.claim (.meterRead tag l) = some t →
      Answers (.meterRead tag l) s .range [] t) ∧
    (5 ≤ a.toNat ∨ 32 ≤ b.toNat → s.claim (.qualifyRead tag a b) = some t → Answers (.qualifyRead tag a b) s .range [] t) ∧
    (16 ≤ a.toNat ∨ 32 ≤ b.toNat → s.claim (.alarmRead tag a b) = some t → Answers (.alarmRead tag a b) s .range [] t) ∧
    (16 ≤ a.toNat → s.claim (.storeRead tag a) = some t → Answers (.storeRead tag a) s .range [] t) ∧
    (4 ≤ a.toNat → s.claim (.storeErase tag a) = some t → Answers (.storeErase tag a) s .range [] t)

/-- METER READ's scale (R171): the least shift, up to 4, that brings every meter named to 4095 or less. -/
def Sys2Proof.Claims.MeterScaleLeast : Prop :=
  ∀ values : List Nat, (∀ v ∈ values, v ≤ 65535) →
    meterShift values ≤ 4 ∧ (∀ v ∈ values, v / 2 ^ meterShift values ≤ 4095) ∧
    (∀ n, n < meterShift values → ∃ v ∈ values, 4095 < v / 2 ^ n)

/-- METER READ's body after the status (R171): the shift, the stale field with bit i for the i-th entry, and the meters
divided by 2 to the shift, twelve bits each, in list order, most significant bit first, the last half byte 0 of an odd
list. -/
def Sys2Proof.Claims.MeterBodyLaidOut : Prop :=
  ∀ meters : List Meter, meters.length ≤ 32 → (∀ m ∈ meters, m.value ≤ 65535) →
    let shift := meterShift (meters.map (·.value))
    let scaled (m : Meter) : BitVec 12 := BitVec.ofNat 12 (m.value / 2 ^ shift)
    ∃ (stale : BitVec 32) (packed : List Byte),
      meterBody meters = BitVec.ofNat 8 shift :: wordBytes stale ++ packed ∧
      (∀ n, n < 32 → stale.getLsbD n = ((meters[n]?).map (·.stale)).getD false) ∧
      packed.length = (3 * meters.length + 1) / 2 ∧
      (∀ n a b, meters[2 * n]? = some a → meters[2 * n + 1]? = some b → PackedAt packed n (scaled a ++ scaled b)) ∧
      (∀ n a, meters[2 * n]? = some a → meters.length = 2 * n + 1 →
        ∃ x y : Byte, packed.drop (3 * n) = [x, y] ∧ (x ++ y : BitVec 16) = scaled a ++ 0#4)

/-! ## Feeds and spokes -/

/-- FEED SET completes (R8): the checks in their order, each with its refusal; past them the record is written whole. -/
def Sys2Proof.Claims.FeedSetActs : Prop :=
  ∀ (tag fd st op bd lv : Byte) (s t : State), s.claim (.feedSet tag fd st op bd lv) = some t →
    (feedSetOf fd st op bd lv = none → Answers (.feedSet tag fd st op bd lv) s .range [] t) ∧
    (∀ f r, feedSetOf fd st op bd lv = some (f, r) →
      (t.feedBound f = true → t.feeds[f].mutesOnly r = false →
        Answers (.feedSet tag fd st op bd lv) s .inUse [] t) ∧
      ((t.feedBound f = false ∨ t.feeds[f].mutesOnly r = true) → r.state ≠ .unused → t.permits f r = false →
        Answers (.feedSet tag fd st op bd lv) s .entitlement [] t) ∧
      ((t.feedBound f = false ∨ t.feeds[f].mutesOnly r = true) → (r.state = .unused ∨ t.permits f r = true) →
        Answers (.feedSet tag fd st op bd lv) s .done [] { t with feeds := t.feeds.set f r }))

/-- The ranges of FEED SET's operands (R8, R170): feed 0 to 23, state 0 to 2, operator 0 to 7, band 0 to 15, level 0 to 80. -/
def Sys2Proof.Claims.FeedSetRanges : Prop :=
  ∀ fd st op bd lv : Byte,
    (feedSetOf fd st op bd lv = none ↔
      24 ≤ fd.toNat ∨ 3 ≤ st.toNat ∨ 8 ≤ op.toNat ∨ 16 ≤ bd.toNat ∨ 81 ≤ lv.toNat) ∧
    (∀ f r, feedSetOf fd st op bd lv = some (f, r) → f.val = fd.toNat ∧ r.operator.val = op.toNat ∧
      r.band.val = bd.toNat ∧ r.level.val = lv.toNat ∧ (r.state = .unused ↔ st = 0#8) ∧ (r.state = .active ↔ st = 1#8) ∧
      (r.state = .muted ↔ st = 2#8))

/-- What FEED SET's checks read (R8): a feed is bound where a bound plan carries it at a spoke; a bound feed's record may
stay as it is or change between ACTIVE and MUTED alone; and the working copy permits a record. -/
def Sys2Proof.Claims.FeedChecks : Prop :=
  ∀ (s : State) (f : FeedId) (old new : FeedRec),
    (s.feedBound f = true ↔ ∃ k i, Bound s k ∧ Carries s.slots[k].plan i f) ∧
    (s.permits f new = true ↔ Permits s f new) ∧
    (old.mutesOnly new = true ↔ new = old ∨ (old.state ≠ .unused ∧ new.state ≠ .unused ∧
      new.operator = old.operator ∧ new.band = old.band ∧ new.level = old.level))

/-- SPOKE ISOLATE and SPOKE QUIET complete (R43, R45): the holds and states they give, with nothing raised but what the
Cutover Engine does when it is told that a spoke left LIVE (R85). -/
def Obligations.IsolateAndQuietSetHolds : Prop :=
  ∀ (tag b : Byte) (i : SpokeId) (s t : State), below 32 b = some i →
    (s.claim (.spokeIsolate tag b) = some t → ∃ u, Answers (.spokeIsolate tag b) s .done [] u ∧
      u = { t with spokes := u.spokes, engine := u.engine, channels := u.channels, capture := u.capture, due := u.due } ∧
      (∀ j : SpokeId, j ≠ i → u.spokes[j] = t.spokes[j]) ∧
      (t.spokes[i].hold.isolates = true → u = t) ∧
      (t.spokes[i].hold.isolates = false → u.spokes[i] = { t.spokes[i] with
        hold := .isolate .admin, settle := 0
        state := if t.spokes[i].state = .live ∨ t.spokes[i].state = .quiet then .isolated else t.spokes[i].state }) ∧
      (t.spokes[i].hold.isolates = false → t.spokes[i].state = .live →
        u.engine = (t.tellEngine i).engine ∧ u.channels = (t.tellEngine i).channels) ∧
      (t.spokes[i].state ≠ .live → u.engine = t.engine ∧ u.channels = t.channels)) ∧
    (s.claim (.spokeQuiet tag b) = some t →
      (t.spokes[i].hold.isolates = true → Answers (.spokeQuiet tag b) s .wrongState [] t) ∧
      (t.spokes[i].hold.isolates = false → ∃ u, Answers (.spokeQuiet tag b) s .done [] u ∧
        u = { t with spokes := u.spokes, engine := u.engine, channels := u.channels, capture := u.capture, due := u.due } ∧
        (∀ j : SpokeId, j ≠ i → u.spokes[j] = t.spokes[j]) ∧
        (t.spokes[i].state = .live →
          u.spokes[i] = { t.spokes[i] with hold := .quiet, state := .quiet, settle := 0 } ∧
          u.engine = (t.tellEngine i).engine ∧ u.channels = (t.tellEngine i).channels) ∧
        (t.spokes[i].state ≠ .live → u = t.mapSpoke i fun r => { r with hold := .quiet })))

/-- SPOKE RESTORE completes (R44): refused without an isolate hold; an ISOLATED spoke enters LIVE with the restore settle
where its class is known and its plan expects no other, stays ISOLATED with CLASS_MISMATCH and ISOLATION raised where its
plan expects another (R29), and enters TRAINING where none is known; another keeps its state. -/
def Sys2Proof.Claims.RestoreClearsIsolateHold : Prop :=
  ∀ (tag b : Byte) (i : SpokeId) (s t : State), below 32 b = some i → s.claim (.spokeRestore tag b) = some t →
    (t.spokes[i].hold.isolates = false → Answers (.spokeRestore tag b) s .wrongState [] t) ∧
    (t.spokes[i].hold.isolates = true → ∃ u, Answers (.spokeRestore tag b) s .done [] u ∧
      (∀ j : SpokeId, j ≠ i → u.spokes[j] = t.spokes[j]) ∧
      u = { t with spokes := u.spokes, links := u.links, engine := u.engine, channels := u.channels,
                   capture := u.capture, due := u.due } ∧
      (t.spokes[i].state = .isolated → t.spokes[i].knownClass ≠ none →
        (t.expectedClass i = none ∨ t.expectedClass i = t.spokes[i].knownClass) →
        u.spokes[i] = { t.spokes[i] with hold := .none, state := .live, settle := t.restoreSettle } ∧
        u.channels = t.channels) ∧
      (t.spokes[i].state = .isolated → t.spokes[i].knownClass ≠ none →
        (∃ c, t.expectedClass i = some c ∧ t.spokes[i].knownClass ≠ some c) →
        u.spokes[i] = { t.spokes[i] with hold := .isolate .classMismatch, settle := 0 } ∧
        u.channels[(13 : ChannelId)] =
          (t.raise 13 (some i.val) (.isolation .classMismatch)).channels[(13 : ChannelId)]) ∧
      (t.spokes[i].state = .isolated → t.spokes[i].knownClass = none →
        u.spokes[i] = { t.spokes[i] with hold := .none, state := .training, elapsed := 0 } ∧
        Request.hello ∈ u.links[i].requests ∧ u.channels = t.channels) ∧
      (t.spokes[i].state ≠ .isolated → u.spokes[i] = { t.spokes[i] with hold := .none } ∧ u.channels = t.channels))

/-- SPOKE WAKE (R46): the whole rule. -/
def Obligations.WakeEndsQuietHold : Prop :=
  ∀ (tag b : Byte) (s t : State), s.claim (.spokeWake tag b) = some t →
    (32 ≤ b.toNat → Answers (.spokeWake tag b) s .range [] t) ∧
    (∀ i : SpokeId, below 32 b = some i →
      (t.spokes[i].state = .quiet → t.spokes[i].hold = .quiet →
        ∃ u, Answers (.spokeWake tag b) s .done [] u ∧ (∀ j : SpokeId, j ≠ i → u.spokes[j] = t.spokes[j]) ∧
          ((t.expectedClass i = none ∨ t.expectedClass i = t.spokes[i].knownClass) →
            u = { t with spokes := u.spokes } ∧
            u.spokes[i] = { t.spokes[i] with hold := .none, state := .live, settle := t.restoreSettle }) ∧
          ((∃ c, t.expectedClass i = some c ∧ t.spokes[i].knownClass ≠ some c) →
            u.spokes[i].state = .isolated ∧ u.spokes[i].hold = .isolate .classMismatch ∧ u.spokes[i].settle = 0 ∧
            u.channels[(13 : ChannelId)] =
              (t.raise 13 (some i.val) (.isolation .classMismatch)).channels[(13 : ChannelId)] ∧
            u = { t with spokes := u.spokes, engine := u.engine, channels := u.channels, capture := u.capture,
                         due := u.due }) ∧
          u.channels[chLinkUp] = t.channels[chLinkUp]) ∧
      (t.spokes[i].state = .dark ∨ t.spokes[i].state = .training → t.spokes[i].hold = .quiet →
        Answers (.spokeWake tag b) s .done [] (t.mapSpoke i fun r => { r with hold := .none })) ∧
      (t.spokes[i].state = .live ∨ t.spokes[i].state = .isolated ∨ t.spokes[i].hold ≠ .quiet →
        Answers (.spokeWake tag b) s .wrongState [] t))

/-- SPOKE RETRAIN completes in every state (R47): the record takes the second column of R24 with the hold kept, the
link is dropped, the qualifier records are IDLE, DURATION is raised, cut short, for each that was MEASURING (R124; their
order is log 11), and LINK_LOST is not raised. SPOKE REARM completes (R48): the latch
is cleared, or WRONG_STATE where it is clear. That RETRAIN unlocks the link at once is the model's choice (log 13). -/
def Sys2Proof.Claims.RetrainAndRearm : Prop :=
  ∀ (tag b : Byte) (i : SpokeId) (s t : State), below 32 b = some i →
    (s.claim (.spokeRetrain tag b) = some t → ∃ u, Answers (.spokeRetrain tag b) s .done [] u ∧
      u.spokes[i] = .dark t.spokes[i].hold ∧ u.links[i] = .dropped ∧ (∀ k : FaultKind, u.qual i k = .reset) ∧
      (∀ j : SpokeId, j ≠ i → u.spokes[j] = t.spokes[j] ∧ u.links[j] = t.links[j] ∧ u.quals[j] = t.quals[j]) ∧
      u.channels[chLinkLost] = t.channels[chLinkLost] ∧ u.channels[(1 : ChannelId)] = durationCutShort t i ∧
      u = { t with spokes := u.spokes, links := u.links, quals := u.quals, engine := u.engine, channels := u.channels,
                   capture := u.capture, due := u.due }) ∧
    (s.claim (.spokeRearm tag b) = some t →
      (t.spokes[i].overrun = true → Answers (.spokeRearm tag b) s .done []
        (t.mapSpoke i fun r => { r with overrun := false, firstDiscarded := none })) ∧
      (t.spokes[i].overrun = false → Answers (.spokeRearm tag b) s .wrongState [] t))

/-- POLL SET (R41): the whole rule. -/
def Obligations.PollSetLowersCounts : Prop :=
  (∀ (tag : Byte) (p : Half) (s t : State), s.claim (.pollSet tag p) = some t →
    (p.toNat < 10 ∨ 1000 < p.toNat → Answers (.pollSet tag p) s .range [] t) ∧
    (10 ≤ p.toNat → p.toNat ≤ 1000 → ∃ u, Answers (.pollSet tag p) s .done [] u ∧
      u = { t with pollPeriod := p.toNat, spokes := u.spokes } ∧
      (∀ i : SpokeId, u.spokes[i] = { t.spokes[i] with nextPoll := min p.toNat t.spokes[i].nextPoll }))) ∧
  (∀ (i : SpokeId) (s : State), s.due.poll[i] = true →
    ∃ u, exec (.healthPollDue i) s = .next u ∧ u.spokes[i].nextPoll = s.pollPeriod) ∧
  (∀ (strap : Fin 8) (s : State), ∃ u, exec (.powerOnReset strap) s = .next u ∧ u.pollPeriod = 100) ∧
  (∀ s : State, s.hubReset.pollPeriod = 100)

/-! ## Plans -/

/-- PLAN DROP (R60): the whole rule. -/
def Obligations.PlanDropEmpties : Prop :=
  ∀ (tag b : Byte) (k : SlotId) (s t : State), below 8 b = some k → s.claim (.planDrop tag b) = some t →
    (t.engine.holds k = true → Answers (.planDrop tag b) s .inUse [] t) ∧
    (t.engine.holds k = false → ∃ u, Answers (.planDrop tag b) s .done [0] u ∧
      u = { t with slots := t.slots.set k ⟨.empty, Plan.empty, none⟩, pointer := u.pointer, staging := u.staging } ∧
      (t.pointer.map (·.slot) = some k → u.pointer = none ∧ u.staging = ⟨none, none⟩) ∧
      (t.pointer.map (·.slot) ≠ some k → u.pointer = t.pointer ∧ u.staging = t.staging))

/-- PLAN OPEN and PLAN EDIT complete (R56, R57): the table of slot states, and the pointer cleared where it names the slot. -/
def Sys2Proof.Claims.PlanOpenAndEdit : Prop :=
  ∀ (tag b : Byte) (k : SlotId) (s t : State), below 8 b = some k →
    (s.claim (.planOpen tag b) = some t →
      (t.engine.holds k = true → Answers (.planOpen tag b) s .inUse [] t) ∧
      (t.engine.holds k = false → ∃ u, Answers (.planOpen tag b) s .done [1] u ∧
        u = { t with slots := t.slots.set k ⟨.loading, Plan.empty, none⟩, pointer := u.pointer, staging := u.staging } ∧
        (t.pointer.map (·.slot) = some k → u.pointer = none ∧ u.staging = ⟨none, none⟩) ∧
        (t.pointer.map (·.slot) ≠ some k → u.pointer = t.pointer ∧ u.staging = t.staging))) ∧
    (s.claim (.planEdit tag b) = some t →
      (t.slots[k].state = .empty ∨ t.slots[k].state = .loading → Answers (.planEdit tag b) s .wrongState [] t) ∧
      (t.slots[k].state = .ready ∨ t.slots[k].state = .rejected → t.engine.holds k = true →
        Answers (.planEdit tag b) s .inUse [] t) ∧
      (t.slots[k].state = .ready ∨ t.slots[k].state = .rejected → t.engine.holds k = false →
        ∃ u, Answers (.planEdit tag b) s .done [1] u ∧
          u = { t with slots := t.slots.set k ⟨.loading, t.slots[k].plan, none⟩, pointer := u.pointer,
                       staging := u.staging } ∧
          (t.pointer.map (·.slot) = some k → u.pointer = none ∧ u.staging = ⟨none, none⟩) ∧
          (t.pointer.map (·.slot) ≠ some k → u.pointer = t.pointer ∧ u.staging = t.staging)))

/-- PLAN CELL and PLAN EXPECT complete (R58, R59): one entry out of range refuses all; a slot that is not LOADING refuses;
else every entry is written in message order, and no entry of another spoke changes. -/
def Obligations.EntriesWrittenInOrder : Prop :=
  ∀ (tag b : Byte) (es : List CellEntry) (ps : List ExpectPair) (k : SlotId) (s t : State), below 8 b = some k →
    (s.claim (.planCell tag b es) = some t → 1 ≤ es.length → es.length ≤ 8 →
      (readAll cellOf es = none → Answers (.planCell tag b es) s .range [] t) ∧
      (∀ ws, readAll cellOf es = some ws → t.slots[k].state ≠ .loading →
        Answers (.planCell tag b es) s .wrongState [] t) ∧
      (∀ ws, readAll cellOf es = some ws → t.slots[k].state = .loading →
        ∃ u, Answers (.planCell tag b es) s .done [1] u ∧ u = { t with slots := u.slots } ∧
          (∀ j : SlotId, j ≠ k → u.slots[j] = t.slots[j]) ∧ u.slots[k].state = .loading ∧
          (∀ (i : SpokeId) (c : CellPos), u.slots[k].plan[i].expect = t.slots[k].plan[i].expect ∧
            ((∀ w ∈ ws, ¬(w.1 = i ∧ w.2.1 = c)) → u.slots[k].plan[i].cells[c] = t.slots[k].plan[i].cells[c]) ∧
            (∀ before v after, ws = before ++ (i, c, v) :: after → (∀ w ∈ after, ¬(w.1 = i ∧ w.2.1 = c)) →
              u.slots[k].plan[i].cells[c] = v)))) ∧
    (s.claim (.planExpect tag b ps) = some t → 1 ≤ ps.length → ps.length ≤ 16 →
      (readAll pairOf ps = none → Answers (.planExpect tag b ps) s .range [] t) ∧
      (∀ ws, readAll pairOf ps = some ws → t.slots[k].state ≠ .loading →
        Answers (.planExpect tag b ps) s .wrongState [] t) ∧
      (∀ ws, readAll pairOf ps = some ws → t.slots[k].state = .loading →
        ∃ u, Answers (.planExpect tag b ps) s .done [1] u ∧ u = { t with slots := u.slots } ∧
          (∀ j : SlotId, j ≠ k → u.slots[j] = t.slots[j]) ∧ u.slots[k].state = .loading ∧
          (∀ i : SpokeId, u.slots[k].plan[i].cells = t.slots[k].plan[i].cells ∧
            ((∀ w ∈ ws, w.1 ≠ i) → u.slots[k].plan[i].expect = t.slots[k].plan[i].expect) ∧
            (∀ before v after, ws = before ++ (i, v) :: after → (∀ w ∈ after, w.1 ≠ i) →
              u.slots[k].plan[i].expect = v))))

/-- PLAN CLOSE completes (R62): WRONG_STATE unless LOADING; READY where every check passes; else REJECTED with the failure. -/
def Sys2Proof.Claims.PlanCloseAdmits : Prop :=
  ∀ (tag b : Byte) (k : SlotId) (s t : State), below 8 b = some k → s.claim (.planClose tag b) = some t →
    (t.slots[k].state ≠ .loading → Answers (.planClose tag b) s .wrongState [] t) ∧
    (t.slots[k].state = .loading → t.admission true t.slots[k].plan = none →
      Answers (.planClose tag b) s .done [2] { t with slots := t.slots.set k ⟨.ready, t.slots[k].plan, none⟩ }) ∧
    (∀ f, t.slots[k].state = .loading → t.admission true t.slots[k].plan = some f →
      Answers (.planClose tag b) s .done (3#8 :: f.bytes)
        { t with slots := t.slots.set k ⟨.rejected, t.slots[k].plan, some f⟩ })

/-- A plan that passes admission satisfies each of the nine checks (R63 to R66). -/
def Sys2Proof.Claims.AdmittedPlanPasses : Prop :=
  ∀ (s : State) (p : Plan), s.admission true p = none →
    (∀ (i : SpokeId) (k : CellPos) (c : Cell), p[i].cells[k] = some c →
      s.feeds[c.feed].state ≠ .unused ∧
      (∀ j : CellPos, j < k → (p[i].cells[j]).map (·.feed) ≠ some c.feed) ∧
      (∃ cls r, p[i].expect = some cls ∧ s.store.nodeClass cls = some r ∧
        p[i].count ≤ r.capacity ∧ r.bands.getLsbD s.feeds[c.feed].band = true ∧
        s.feeds[c.feed].level.val ≤ r.level + c.down.val) ∧
      (∃ o, s.store.operator s.feeds[c.feed].operator = some o ∧ o.ports.getLsbD (portOf c.feed) = true ∧
        o.bands.getLsbD s.feeds[c.feed].band = true ∧ (p.carriers c.feed).length ≤ o.fanout)) ∧
    (∀ (i : SpokeId) (cls : NodeClass), p[i].expect = some cls → (s.store.nodeClass cls).isSome = true)

/-- Admission, and its entitlement part, which leaves out FEED_TWICE and NO_CLASS (R63 to R67): a plan passes exactly where
no check fails, and else the failure found is the first in the order of R63 and R66, with its spoke, position and
reason. -/
def Sys2Proof.Claims.AdmissionFindsFirst : Prop :=
  ∀ (s : State) (full : Bool) (p : Plan),
    (s.admission full p = none ↔ ∀ f, ¬PlanFails s full p f) ∧
    (∀ f, s.admission full p = some f ↔
      PlanFails s full p f ∧ ∀ g, PlanFails s full p g → ¬g.order p < f.order p)

/-- A record that a check reads (R64, R65, R146): it is in the working copy, and its page is not withdrawing. -/
def Sys2Proof.Claims.RecordsRead : Prop :=
  ∀ (st : Store) (n : Fin 8),
    (∀ r, st.operator n = some r ↔ st.working[n.val]'(by omega) = some (.operator r) ∧
      st.withdrawing[n.val / 4]'(by omega) = false) ∧
    (∀ r, st.nodeClass n = some r ↔ st.working[8 + n.val]'(by omega) = some (.nodeClass r) ∧
      st.withdrawing[2 + n.val / 4]'(by omega) = false)

/-- TRIM POINT completes (R69): refused for a slot that is EMPTY or REJECTED; else the pointer is set at part DL, the staging
record is emptied and the response gives the pointer. -/
def Sys2Proof.Claims.TrimPointSets : Prop :=
  ∀ (tag a b c : Byte) (k : SlotId) (i : SpokeId) (p : CellPos) (s t : State), below 8 a = some k →
    below 32 b = some i → below 4 c = some p → s.claim (.trimPoint tag a b c) = some t →
    (t.slots[k].state = .empty ∨ t.slots[k].state = .rejected → Answers (.trimPoint tag a b c) s .wrongState [] t) ∧
    (t.slots[k].state = .loading ∨ t.slots[k].state = .ready →
      Answers (.trimPoint tag a b c) s .done (u8 k ++ u8 i ++ u8 p ++ [0])
        { t with pointer := some ⟨k, i, p, .dl⟩, staging := ⟨none, none⟩ })

/-- TRIM of one cell's three values from part DL completes (R70 to R73): NO_POINTER (the cleared pointer as four bytes 0xFF,
log 9), WRONG_STATE and RANGE in their order with
pointer and staging given; else the cell takes the three values together where the level check passes, and keeps its
feed; an EMPTY cell is skipped; a refused commit leaves the cell; the pointer moves to the next cell. -/
def Sys2Proof.Claims.TrimCommitsCell : Prop :=
  ∀ (tag d u v : Byte) (s t : State), s.claim (.trim tag [d, u, v]) = some t →
    (t.pointer = none → Answers (.trim tag [d, u, v]) s .noPointer (pointerBytes none ++ t.staging.bytes) t) ∧
    (∀ p, t.pointer = some p → t.slots[p.slot].state.trims = false →
      Answers (.trim tag [d, u, v]) s .wrongState (pointerBytes (some p) ++ t.staging.bytes) t) ∧
    (∀ p, t.pointer = some p → t.slots[p.slot].state.trims = true → p.part = .dl → (64 ≤ d.toNat ∨ 64 ≤ u.toNat) →
      Answers (.trim tag [d, u, v]) s .range (pointerBytes (some p) ++ t.staging.bytes) t) ∧
    (∀ p dc uc, t.pointer = some p → t.slots[p.slot].state.trims = true → p.part = .dl → below 64 d = some dc →
      below 64 u = some uc →
      ∃ w body, Answers (.trim tag [d, u, v]) s .done body w ∧
        w = { t with slots := w.slots, pointer := w.pointer, staging := ⟨none, none⟩ } ∧
        w.pointer = some { p with pos := p.pos + 1, spoke := if p.pos = 3 then p.spoke + 1 else p.spoke } ∧
        (t.slots[p.slot].plan[p.spoke].cells[p.pos] = none → w.slots = t.slots) ∧
        (∀ c, t.slots[p.slot].plan[p.spoke].cells[p.pos] = some c →
          (t.commitCheck t.slots[p.slot].plan[p.spoke] c.feed dc = .made →
            w.slots = t.slots.set p.slot ⟨t.slots[p.slot].state,
              t.slots[p.slot].plan.writeCell (p.spoke, p.pos, some ⟨c.feed, dc, uc, v.toFin⟩),
              t.slots[p.slot].failure⟩) ∧
          (t.commitCheck t.slots[p.slot].plan[p.spoke] c.feed dc ≠ .made → w.slots = t.slots)))

/-- TRIM of 1 to 48 values completes (R70, R73): refused by a value of 64 or more that would land at DL or UL; else every
value lands in order, and the answer has the counts, the first refused commit, the pointer and the staging record. -/
def Sys2Proof.Claims.TrimLandsInOrder : Prop :=
  (∀ (tag : Byte) (vs : List Byte) (s t : State) (p : Pointer), 1 ≤ vs.length → vs.length ≤ 48 →
    s.claim (.trim tag vs) = some t → t.pointer = some p → t.slots[p.slot].state.trims = true →
    (trimsFit p.part vs = false → Answers (.trim tag vs) s .range (pointerBytes (some p) ++ t.staging.bytes) t) ∧
    (trimsFit p.part vs = true → ∃ l : Landing, l = vs.foldl Landing.land ⟨0, 0, 0, none, t⟩ ∧
      Answers (.trim tag vs) s .done (u8 l.made ++ u8 l.skipped ++ u8 l.refused ++ failureBytes l.first ++
        pointerBytes l.state.pointer ++ l.state.staging.bytes) l.state)) ∧
  (∀ (v : Byte) (vs : List Byte), trimsFit .dl (v :: vs) = (decide (v.toNat < 64) && trimsFit .ul vs) ∧
    trimsFit .ul (v :: vs) = (decide (v.toNat < 64) && trimsFit .delay vs) ∧
    trimsFit .delay (v :: vs) = trimsFit .dl vs ∧ ∀ q : Part, trimsFit q [] = true)

/-- How one value lands (R71, R72): staged at DL and at UL; at DELAY the cell is skipped where it is EMPTY, refused by its
class or level, or takes the three values; then the pointer goes to the next cell, from spoke 31 to spoke 0. -/
def Sys2Proof.Claims.ValueLands : Prop :=
  ∀ (l : Landing) (v : Byte) (p : Pointer), l.state.pointer = some p →
    (∀ d, p.part = .dl → below 64 v = some d →
      l.land v = { l with state := { l.state with staging := ⟨some d, none⟩, pointer := some { p with part := .ul } } }) ∧
    (∀ u, p.part = .ul → below 64 v = some u →
      l.land v = { l with state := { l.state with
        staging := ⟨l.state.staging.down, some u⟩, pointer := some { p with part := .delay } } }) ∧
    (∀ d u, p.part = .delay → l.state.staging = ⟨some d, some u⟩ →
      let next : State := { l.state with
        staging := ⟨none, none⟩
        pointer := some { p with
          part := .dl, pos := p.pos + 1, spoke := if p.pos = 3 then (if p.spoke = 31 then 0 else p.spoke + 1) else p.spoke } }
      let e := l.state.slots[p.slot].plan[p.spoke]
      (e.cells[p.pos] = none → l.land v = { l with skipped := l.skipped + 1, state := next }) ∧
      (∀ c, e.cells[p.pos] = some c →
        (∀ r, l.state.commitCheck e c.feed d = .refused r → l.land v = { l with
          refused := l.refused + 1, first := l.first.or (some ⟨p.spoke, some p.pos, r⟩), state := next }) ∧
        (l.state.commitCheck e c.feed d = .made → l.land v = { l with
          made := l.made + 1
          state := { next with slots := l.state.slots.set p.slot ⟨l.state.slots[p.slot].state,
            l.state.slots[p.slot].plan.writeCell (p.spoke, p.pos, some ⟨c.feed, d, u, v.toFin⟩),
            l.state.slots[p.slot].failure⟩ } }) ∧
        (e.expect = none → l.state.commitCheck e c.feed d = .made) ∧
        (∀ n, e.expect = some n → l.state.store.nodeClass n = none →
          l.state.commitCheck e c.feed d = .refused .classAbsent) ∧
        (∀ n r, e.expect = some n → l.state.store.nodeClass n = some r → l.state.commitCheck e c.feed d =
          if r.level + d.val < l.state.feeds[c.feed].level.val then .refused .level else .made)))

/-! ## Banks and cutovers -/

/-- BANK BIND completes (R78, R79): the checks in their order, each with its refusal; past them the bank holds the slot and
the response gives both bindings; each LIVE follower of that bank starts its settle or, expecting another class than its
own, is isolated with CLASS_MISMATCH, and ISOLATION is raised; every other spoke keeps its record. -/
def Obligations.BankBindChecksAndBinds : Prop :=
  ∀ (tag a b : Byte) (bank : Bool) (k : SlotId) (s t : State), bankOf a = some bank → below 8 b = some k →
    s.claim (.bankBind tag a b) = some t →
    let followed : Prop := if bank then 0 < t.engine.line.val else t.engine.line.val < 32
    (t.engine.state ≠ .idle → Answers (.bankBind tag a b) s .busy [] t) ∧
    (t.engine.state = .idle → t.slots[k].state ≠ .ready → Answers (.bankBind tag a b) s .wrongState [] t) ∧
    (t.engine.state = .idle → t.slots[k].state = .ready → t.engine.binding bank ≠ none → followed →
      Answers (.bankBind tag a b) s .inUse [] t) ∧
    (t.engine.state = .idle → t.slots[k].state = .ready → (t.engine.binding bank = none ∨ ¬followed) →
      (∀ f, t.admission false t.slots[k].plan = some f → Answers (.bankBind tag a b) s .entitlement f.bytes t) ∧
      (t.admission false t.slots[k].plan = none → ∃ u : State,
        let code (v : Option SlotId) : Byte := match v with | some n => BitVec.ofNat 8 n.val | none => 0xFF#8
        Answers (.bankBind tag a b) s .done [code u.engine.bankA, code u.engine.bankB] u ∧
        u.engine = (if bank then { t.engine with bankB := some k } else { t.engine with bankA := some k }) ∧
        u = { t with spokes := u.spokes, engine := u.engine, channels := u.channels, capture := u.capture,
                     due := u.due } ∧
        (∀ c : ChannelId, c ≠ 13 → u.channels[c] = t.channels[c]) ∧
        (∀ i : SpokeId, ¬(t.spokes[i].state = .live ∧ t.engine.followsB i = bank) → u.spokes[i] = t.spokes[i]) ∧
        (∀ i : SpokeId, t.spokes[i].state = .live → t.engine.followsB i = bank →
          ((t.slots[k].plan[i].expect = none ∨ t.slots[k].plan[i].expect = t.spokes[i].knownClass) →
            u.spokes[i] = { t.spokes[i] with settle := max t.spokes[i].settle t.restoreSettle }) ∧
          (∀ c, t.slots[k].plan[i].expect = some c → t.spokes[i].knownClass ≠ some c →
            t.spokes[i].hold.isolates = false →
            u.spokes[i].state = .isolated ∧ u.spokes[i].hold = .isolate .classMismatch ∧ u.spokes[i].settle = 0 ∧
            (t.channels[(13 : ChannelId)].enabled = true → ∃ e ∈ u.channels[(13 : ChannelId)].list,
              e.source = some i.val ∧ e.detail = .isolation .classMismatch)))))

/-- BANK RELEASE (R80): the checks and the unbinding. -/
def Obligations.BankReleaseUnbinds : Prop :=
  ∀ (tag a : Byte) (s t : State), s.claim (.bankRelease tag a) = some t →
    (2 ≤ a.toNat → Answers (.bankRelease tag a) s .range [] t) ∧
    (∀ bank, bankOf a = some bank →
      let followed : Prop := if bank then 0 < t.engine.line.val else t.engine.line.val < 32
      (t.engine.state ≠ .idle → Answers (.bankRelease tag a) s .busy [] t) ∧
      (t.engine.state = .idle → t.engine.binding bank ≠ none → followed →
        Answers (.bankRelease tag a) s .inUse [] t) ∧
      (t.engine.state = .idle → (t.engine.binding bank = none ∨ ¬followed) →
        ∃ u, Answers (.bankRelease tag a) s .done [] u ∧ u = { t with engine := u.engine } ∧
          u.engine.binding bank = none ∧ u.engine.binding (!bank) = t.engine.binding (!bank) ∧
          u.engine.line = t.engine.line ∧ u.engine.order = t.engine.order ∧ u.engine.state = .idle ∧
          u.engine.params = t.engine.params))

/-- SWEEP ORDER and FOLD complete (R81, R88): the checks in their order; a permutation becomes the order at line 0 or 32; a
fold hands bank B's slot to bank A and sets the line to 0. -/
def Sys2Proof.Claims.OrderAndFoldAct : Prop :=
  ∀ (tag : Byte) (l : List Byte) (s t : State),
    (s.claim (.sweepOrder tag l) = some t → l.length = 32 →
      (Machine.orderOf l = none → Answers (.sweepOrder tag l) s .range [] t) ∧
      (∀ o, Machine.orderOf l = some o →
        (t.engine.state ≠ .idle → Answers (.sweepOrder tag l) s .busy [] t) ∧
        (t.engine.state = .idle → 0 < t.engine.line.val → t.engine.line.val < 32 →
          Answers (.sweepOrder tag l) s .inUse [] t) ∧
        (t.engine.state = .idle → (t.engine.line.val = 0 ∨ t.engine.line.val = 32) →
          o.toList.Nodup ∧ (∀ n : Fin 32, (o[n]).val = (l.getD n.val 0#8).toNat) ∧
          Answers (.sweepOrder tag l) s .done [] { t with engine := { t.engine with order := o } }))) ∧
    (s.claim (.fold tag) = some t →
      (t.engine.state ≠ .idle → Answers (.fold tag) s .busy [] t) ∧
      (t.engine.state = .idle → t.engine.line.val < 32 → Answers (.fold tag) s .wrongState [] t) ∧
      (t.engine.state = .idle → t.engine.line.val = 32 →
        Answers (.fold tag) s .done []
          { t with engine := { t.engine with bankA := t.engine.bankB, bankB := none, line := 0 } }))

/-- A list of 32 numbers is a sweep order where each is below 32 and none stands twice, and else is out of range (R81). -/
def Sys2Proof.Claims.OrderIsPermutation : Prop :=
  ∀ l : List Byte, l.length = 32 → (Machine.orderOf l = none ↔ ¬((∀ b ∈ l, b.toNat < 32) ∧ l.Nodup))

/-- CUTOVER completes (R82): the checks in their order; DONE at its target and STARTED elsewhere, the restore settle becoming
the settle time in both. -/
def Sys2Proof.Claims.CutoverStarts : Prop :=
  ∀ (tag a b c d : Byte) (s t : State), s.claim (.cutover tag a b c d) = some t →
    (32 < a.toNat ∨ b.toNat = 0 ∨ 63 < c.toNat ∨ 1 < d.toNat → Answers (.cutover tag a b c d) s .range [] t) ∧
    (∀ p, paramsOf a b c d = some p →
      (t.engine.state ≠ .idle → Answers (.cutover tag a b c d) s .busy [] t) ∧
      (t.engine.state = .idle → p.target = t.engine.line →
        Answers (.cutover tag a b c d) s .done (u8 0 ++ u8 t.engine.line)
          { t with engine := { t.engine with params := some p }, restoreSettle := p.settle }) ∧
      (t.engine.state = .idle → p.target ≠ t.engine.line →
        (t.engine.line < p.target → t.engine.bankB = none → Answers (.cutover tag a b c d) s .wrongState [] t) ∧
        (p.target < t.engine.line → t.engine.bankA = none → Answers (.cutover tag a b c d) s .wrongState [] t) ∧
        ((t.engine.line < p.target → t.engine.bankB ≠ none) → (p.target < t.engine.line → t.engine.bankA ≠ none) →
          ∃ u, Answers (.cutover tag a b c d) s .started (u8 1 ++ u8 t.engine.line) u ∧
            u = { t with engine := u.engine, restoreSettle := p.settle, due := u.due } ∧
            u.engine = { t.engine with state := .stepping, params := some p, current := none })))

/-- The ranges of CUTOVER's operands (R82, R170): target 0 to 32, interval 1 to 255, settle time 0 to 63, fold flag 0 or 1; the
parameters are the operands with origin COMMAND. -/
def Sys2Proof.Claims.CutoverRanges : Prop :=
  ∀ a b c d : Byte,
    (paramsOf a b c d = none ↔ 33 ≤ a.toNat ∨ b = 0#8 ∨ 64 ≤ c.toNat ∨ 2 ≤ d.toNat) ∧
    (∀ p, paramsOf a b c d = some p → p.target.val = a.toNat ∧ p.interval = b.toNat ∧ p.settle.val = c.toNat ∧
      (p.fold = true ↔ d = 1#8) ∧ p.origin = .command)

/-- HALT completes (R87): WRONG_STATE in IDLE; DONE elsewhere, to HALTING with a step in hand and to IDLE with CUTOVER_END
HALTED without one. -/
def Sys2Proof.Claims.HaltStopsCutover : Prop :=
  ∀ (tag : Byte) (s t : State), s.claim (.halt tag) = some t →
    (t.engine.state = .idle → Answers (.halt tag) s .wrongState [] t) ∧
    (t.engine.state = .halting → Answers (.halt tag) s .done [] t) ∧
    (t.engine.state = .stepping → (∃ c, t.engine.current = some c ∧ c.complete = false) →
      Answers (.halt tag) s .done [] { t with engine := { t.engine with state := .halting } }) ∧
    (∀ p, t.engine.state = .stepping → (∀ c, t.engine.current = some c → c.complete = true) →
      t.engine.params = some p →
      Answers (.halt tag) s .done []
        ({ t with engine := { t.engine with state := .idle, current := none } }.raise chCutoverEnd none
          (.cutoverEnd true t.engine.line false p.origin)))

/-! ## Watch, capture, qualification -/

/-- WATCH SET and WATCH OFF complete (R102, R103). -/
def Sys2Proof.Claims.WatchSetActs : Prop :=
  ∀ (tag b : Byte) (m : BitVec 32) (h l : BitVec 24) (d p tg iv st : Byte) (g : GroupId) (s t : State),
    below 8 b = some g →
    (s.claim (.watchSet tag b m h l d p tg iv st) = some t →
      (h.toNat ≤ l.toNat ∨ 2097120 < h.toNat ∨ d.toNat = 0 ∨ reliefOf p tg iv st = none →
        Answers (.watchSet tag b m h l d p tg iv st) s .range [] t) ∧
      (∀ r, l.toNat < h.toNat → h.toNat ≤ 2097120 → 0 < d.toNat → reliefOf p tg iv st = some r →
        ∃ u, Answers (.watchSet tag b m h l d p tg iv st) s .done [] u ∧ u = { t with groups := u.groups, due := u.due } ∧
          u.groups = t.groups.set g ⟨m, h.toNat, l.toNat, d.toNat, r, .calm, 0, .none⟩)) ∧
    (s.claim (.watchOff tag b) = some t → ∃ u, Answers (.watchOff tag b) s .done [] u ∧
      u = { t with groups := u.groups, due := u.due } ∧
      u.groups = update t.groups g (fun r => { r with state := .off, remaining := 0 }))

/-- The ranges of a relief (R102, R170): a presence byte of 0 or 1; with 1, a target of 0 to 32, an interval of 1 to 255 and a
settle time of 0 to 63, each as given; with 0 the three bytes are not checked. -/
def Sys2Proof.Claims.ReliefRanges : Prop :=
  ∀ p tg iv st : Byte,
    (reliefOf p tg iv st = none ↔ 2 ≤ p.toNat ∨ (p = 1#8 ∧ (33 ≤ tg.toNat ∨ iv = 0#8 ∨ 64 ≤ st.toNat))) ∧
    (p = 0#8 → reliefOf p tg iv st = some none) ∧
    (p = 1#8 → reliefOf p tg iv st ≠ some none) ∧
    (∀ r, reliefOf p tg iv st = some (some r) → r.target.val = tg.toNat ∧ r.interval = iv.toNat ∧ r.settle.val = st.toNat)

/-- CAPTURE completes (R106): RANGE, LOCKED and BUSY in their order; a SINGLE sets the single flag, a CONTINUOUS replaces the
continuous request with its next collection at 0, and the response gives the unit's state and both requests (the codes
and an absent request's bytes: logs 20, 9). CAPTURE STOP completes (R111): both requests and the collection in
progress are gone and the buffer with its missed count stays. -/
def Sys2Proof.Claims.CaptureActs : Prop :=
  ∀ (tag a b c d : Byte) (iv : Half) (s t : State),
    let target (x : Target) : List Byte := u8 x.spoke ++ u8 x.pos ++ u8 (if x.kind = .raw then 1 else 0)
    let standing (u : Capture) : List Byte :=
      u8 (if u.collection.isSome then 1 else if u.single.isSome ∨ u.continuous.isSome then 2 else 0) ++
      (match u.single with | some x => 1#8 :: target x | none => [0, 0, 0, 0]) ++
      (match u.continuous with
        | some q => 1#8 :: target q.target ++ u16 q.interval ++ u16 q.next
        | none => [0, 0, 0, 0, 0, 0, 0, 0])
    (s.claim (.capture tag a b c d iv) = some t →
      (targetOf a b c = none ∨ captureModeOf d iv = none → Answers (.capture tag a b c d iv) s .range [] t) ∧
      (∀ x m, targetOf a b c = some x → captureModeOf d iv = some m →
        (x.kind = .raw → t.store.locked = true → Answers (.capture tag a b c d iv) s .locked [] t) ∧
        ((x.kind = .power ∨ t.store.locked = false) →
          let busy : Prop := t.capture.single ≠ none ∨ ∃ q, t.capture.continuous = some q ∧ q.target ≠ x
          (m = none → busy → Answers (.capture tag a b c d iv) s .busy [] t) ∧
          (m = none → ¬busy → ∃ u, u = { t with capture := { t.capture with single := some x } } ∧
            Answers (.capture tag a b c d iv) s .done (standing u.capture) u) ∧
          (∀ n, m = some n → ∃ u, u = { t with capture := { t.capture with continuous := some ⟨x, n, 0⟩ } } ∧
            Answers (.capture tag a b c d iv) s .done (standing u.capture) u)))) ∧
    (s.claim (.captureStop tag) = some t → ∃ u, Answers (.captureStop tag) s .done [] u ∧
      u = { t with capture := u.capture, due := u.due } ∧ u.capture = ⟨none, none, none, t.capture.buffer, t.capture.missed⟩)

/-- The ranges of CAPTURE's operands (R106, R170): spoke 0 to 31, position 0 to 3, kind POWER 0 or RAW 1, mode SINGLE 0 or
CONTINUOUS 1, and for CONTINUOUS an interval of 1 to 1000, which SINGLE does not check. -/
def Sys2Proof.Claims.CaptureRanges : Prop :=
  ∀ (a b c d : Byte) (iv : Half),
    (targetOf a b c = none ↔ 32 ≤ a.toNat ∨ 4 ≤ b.toNat ∨ 2 ≤ c.toNat) ∧
    (∀ x, targetOf a b c = some x → x.spoke.val = a.toNat ∧ x.pos.val = b.toNat ∧ (x.kind = .raw ↔ c = 1#8)) ∧
    (captureModeOf d iv = none ↔ 2 ≤ d.toNat ∨ (d = 1#8 ∧ (iv.toNat = 0 ∨ 1000 < iv.toNat))) ∧
    (d = 0#8 → captureModeOf d iv = some none) ∧
    (d = 1#8 → 1 ≤ iv.toNat → iv.toNat ≤ 1000 → captureModeOf d iv = some (some iv.toNat))

/-- QUALIFY completes (R126): RANGE, also for PERSIST or DURATION of FRAME_ERRORS; else the kind's settings are written whole
and every spoke's record for the kind is IDLE, seen no, every number 0, while the other kinds' records stay. -/
def Sys2Proof.Claims.QualifyActs : Prop :=
  ∀ (tag a b c d e f : Byte) (lv : Half) (s t : State), s.claim (.qualify tag a b c d e f lv) = some t →
    (qualifyOf a b c d e f lv = none → Answers (.qualify tag a b c d e f lv) s .range [] t) ∧
    (a = 0#8 → (b = 1#8 ∨ b = 3#8) → qualifyOf a b c d e f lv = none) ∧
    (∀ k st, qualifyOf a b c d e f lv = some (k, st) → ∃ u, Answers (.qualify tag a b c d e f lv) s .done [] u ∧
      u = { t with settings := t.settings.set (kindIndex k) st, quals := u.quals } ∧
      (∀ i : SpokeId, u.qual i k = ⟨.idle, false, 0, 0, 0, 0⟩) ∧
      (∀ (i : SpokeId) (j : FaultKind), j ≠ k → u.qual i j = t.qual i j))

/-- The ranges of QUALIFY's operands (R126, R170): kind 0 to 4, mode 0 to 3, N and W 1 to 255, unit code 0 to 3, action 0 or
1; the level of OPTICAL_LOW is -300 to 50, that of UPLINK_OVERLOAD any energy, and another kind's is not kept. -/
def Sys2Proof.Claims.QualifyRanges : Prop :=
  ∀ (a b c d e f : Byte) (lv : Half),
    (qualifyOf a b c d e f lv = none ↔ 5 ≤ a.toNat ∨ 4 ≤ b.toNat ∨ c = 0#8 ∨ d = 0#8 ∨ 4 ≤ e.toNat ∨ 2 ≤ f.toNat ∨
      (a = 4#8 ∧ (lv.toInt < -300 ∨ 50 < lv.toInt)) ∨ (a = 0#8 ∧ (b = 1#8 ∨ b = 3#8))) ∧
    (∀ k st, qualifyOf a b c d e f lv = some (k, st) → faultKindCode k = a.toNat ∧ st.mode.code = b.toNat ∧
      st.n = c.toNat ∧ st.window = d.toNat ∧ st.unit.val = e.toNat ∧ (st.isolate = true ↔ f = 1#8) ∧
      st.level = if k = .uplinkOverload then some (lv.toNat : Int) else if k = .opticalLow then some lv.toInt else none)

/-! ## Alarms, the store, the hub -/

/-- ALARM ENABLE, ALARM MASK, ALARM TRACK and ALARM DONE complete (R136 to R139). -/
def Obligations.AlarmCommandsAct : Prop :=
  ∀ (tag b : Byte) (x y : Half) (s t : State),
    (s.claim (.alarmEnable tag x y) = some t →
      (x &&& y ≠ 0#16 → Answers (.alarmEnable tag x y) s .range [] t) ∧
      (x &&& y = 0#16 → ∃ u, Answers (.alarmEnable tag x y) s .done [] u ∧ u = { t with channels := u.channels } ∧
        ∀ c : ChannelId, u.channels[c] =
          if y.getLsbD c then { t.channels[c] with enabled := false, list := [] }
          else if x.getLsbD c then { t.channels[c] with enabled := true } else t.channels[c])) ∧
    (s.claim (.alarmMask tag x y) = some t →
      (x &&& y ≠ 0#16 → Answers (.alarmMask tag x y) s .range [] t) ∧
      (x &&& y = 0#16 → ∃ u, Answers (.alarmMask tag x y) s .done [] u ∧ u = { t with channels := u.channels } ∧
        ∀ c : ChannelId, u.channels[c] =
          if x.getLsbD c then { t.channels[c] with masked := true }
          else if y.getLsbD c then { t.channels[c] with masked := false } else t.channels[c])) ∧
    (s.claim (.alarmTrack tag b) = some t →
      (1 < b.toNat → Answers (.alarmTrack tag b) s .range [] t) ∧
      (b = 1#8 → Answers (.alarmTrack tag b) s .done [] { t with tracking := true }) ∧
      (b = 0#8 → ∃ u, Answers (.alarmTrack tag b) s .done [] u ∧ u = { t with tracking := false, channels := u.channels } ∧
        ∀ c : ChannelId, u.channels[c] = { t.channels[c] with inService := false })) ∧
    (s.claim (.alarmDone tag b) = some t →
      (15 < b.toNat → Answers (.alarmDone tag b) s .range [] t) ∧
      (∀ c : ChannelId, below 16 b = some c →
        (t.channels[c].inService = false → Answers (.alarmDone tag b) s .notInService [] t) ∧
        (t.channels[c].inService = true → Answers (.alarmDone tag b) s .done []
          { t with channels := update t.channels c fun ch => { ch with inService := false } })))

/-- STORE ERASE and STORE WRITE complete (R150, R152): the checks in their order; past them the work is accepted, and the
page is TORN with its records SPOILED and withdrawing, or the record is SPOILED, until the end. -/
def Sys2Proof.Claims.StoreWorkStarts : Prop :=
  ∀ (tag a c0 c1 c2 c3 : Byte) (s t : State),
    (∀ p : PageId, below 4 a = some p → s.claim (.storeErase tag a) = some t →
      (t.store.locked = true → Answers (.storeErase tag a) s .locked [] t) ∧
      (t.store.locked = false → t.store.engine ≠ .idle → Answers (.storeErase tag a) s .busy [] t) ∧
      (t.store.locked = false → t.store.engine = .idle → t.pageInUse p = true →
        Answers (.storeErase tag a) s .inUse [] t) ∧
      (t.store.locked = false → t.store.engine = .idle → t.pageInUse p = false →
        ∃ u, Answers (.storeErase tag a) s .started [] u ∧ u = { t with store := u.store } ∧
          u.store.engine = .erasing p ∧ u.store.left = 40 ∧ u.store.intact[p] = false ∧
          u.store.withdrawing[p] = true ∧ u.store.working = t.store.working ∧ u.store.locked = t.store.locked ∧
          (∀ q : PageId, q ≠ p → u.store.intact[q] = t.store.intact[q] ∧
            u.store.withdrawing[q] = t.store.withdrawing[q]) ∧
          (∀ r : RecordId, u.store.records[r] = if pageOf r = p then .spoiled else t.store.records[r]) ∧
          (∀ r : RecordId, pageOf r = p → u.store.lookup r = none))) ∧
    (s.claim (.storeWrite tag a c0 c1 c2 c3) = some t →
      (storeWriteOf a c0 c1 c2 c3 = none → Answers (.storeWrite tag a c0 c1 c2 c3) s .range [] t) ∧
      (∀ r c, storeWriteOf a c0 c1 c2 c3 = some (r, c) →
        (t.store.locked = true → Answers (.storeWrite tag a c0 c1 c2 c3) s .locked [] t) ∧
        (t.store.locked = false → t.store.engine ≠ .idle → Answers (.storeWrite tag a c0 c1 c2 c3) s .busy [] t) ∧
        (t.store.locked = false → t.store.engine = .idle → t.store.intact[pageOf r] = false →
          Answers (.storeWrite tag a c0 c1 c2 c3) s .torn [] t) ∧
        (t.store.locked = false → t.store.engine = .idle → t.store.intact[pageOf r] = true →
          t.store.records[r] ≠ .blank → Answers (.storeWrite tag a c0 c1 c2 c3) s .wrongState [] t) ∧
        (t.store.locked = false → t.store.engine = .idle → t.store.intact[pageOf r] = true →
          t.store.records[r] = .blank → Answers (.storeWrite tag a c0 c1 c2 c3) s .started []
            { t with store := { t.store with records := t.store.records.set r .spoiled, engine := .writing r c,
                                             left := 4 } })))

/-- The ranges of STORE WRITE's operands (R152, R176): record 0 to 15; records 0 to 7 hold a port set of six bits and a
fan-out of 1 to 32, records 8 to 15 a feed capacity of 1 to 4 and a level code of 0 to 80. -/
def Sys2Proof.Claims.StoreWriteRanges : Prop :=
  ∀ a c0 c1 c2 c3 : Byte,
    (storeWriteOf a c0 c1 c2 c3 = none ↔ 16 ≤ a.toNat ∨
      (a.toNat < 8 ∧ (64 ≤ c0.toNat ∨ c3.toNat = 0 ∨ 32 < c3.toNat)) ∨
      (8 ≤ a.toNat ∧ a.toNat < 16 ∧ (c2.toNat = 0 ∨ 4 < c2.toNat ∨ 80 < c3.toNat))) ∧
    (∀ r c, storeWriteOf a c0 c1 c2 c3 = some (r, c) → r.val = a.toNat ∧ c.bytes = [c0, c1, c2, c3] ∧
      (r.val < 8 → ∃ o, c = .operator o) ∧ (8 ≤ r.val → ∃ n, c = .nodeClass n))

/-- What STORE ERASE's in-use check reads (R150): on pages 0 and 1, an operator of the page is that of a feed that is not
UNUSED or that a bound plan carries; on pages 2 and 3, a class of the page is expected by a bound plan or is the known
class of a spoke. -/
def Sys2Proof.Claims.PageReferences : Prop :=
  ∀ (s : State) (p : PageId), s.pageInUse p = true ↔
    (∃ (o : Fin 8) (f : FeedId), o.val / 4 = p.val ∧ s.feeds[f].operator = o ∧
      (s.feeds[f].state ≠ .unused ∨ ∃ k i, Bound s k ∧ Carries s.slots[k].plan i f)) ∨
    (∃ n : NodeClass, 2 + n.val / 4 = p.val ∧
      ((∃ (k : SlotId) (i : SpokeId), Bound s k ∧ s.slots[k].plan[i].expect = some n) ∨
        ∃ i : SpokeId, s.spokes[i].knownClass = some n))

/-- STORE LOCK completes (R153): LOCKED, BUSY, or the lock set at once and the lock write started. -/
def Sys2Proof.Claims.StoreLockSets : Prop :=
  ∀ (tag : Byte) (s t : State), s.claim (.storeLock tag) = some t →
    (t.store.locked = true → Answers (.storeLock tag) s .locked [] t) ∧
    (t.store.locked = false → t.store.engine ≠ .idle → Answers (.storeLock tag) s .busy [] t) ∧
    (t.store.locked = false → t.store.engine = .idle → Answers (.storeLock tag) s .started []
      { t with store := { t.store with locked := true, engine := .locking, left := 4 } })

/-- RESYNC completes on an UP management port with no other message arriving and room in the frame (R155, R159): its six bytes
are counted, the latch is clear, with no first tag and count 0, and its response is made with the figures (R170, section
10.3; a clear latch as three bytes 0, the tag's place among them, log 9). The responses that waited before it take the
free places, the RESYNC holder's first (R163, log 17); it takes the next one, or stands in the holder, where it replaces
an earlier one that found no place. -/
def Obligations.ResyncReopensIntake : Prop :=
  ∀ (tag : Byte) (s : State), s.mgmtUp = true → s.lane.assembly = none ∨ s.due.abandon = true →
    s.lane.received + 6 ≤ 256 →
    ∃ t m, exec (.resync tag) s = .next t ∧ t = { s with lane := t.lane, due := { s.due with abandon := false } } ∧
      t.lane = { s.lane with
        assembly := none, received := s.lane.received + 6, overrun := false, firstTag := none, discards := 0
        outbound := t.lane.outbound, holder := t.lane.holder, held := t.lane.held } ∧
      (s.lane.overrun = false → m = .response tag 0x3C#6 .done [0, 0, 0]) ∧
      (∀ f, s.lane.overrun = true → s.lane.firstTag = some f →
        m = .response tag 0x3C#6 .done [1#8, f, BitVec.ofNat 8 s.lane.discards]) ∧
      (let waiting : List Message := s.lane.holder.toList ++ s.lane.held.toList
       let free : Nat := 8 - s.lane.outbound.length
       t.lane.outbound = s.lane.outbound ++ (waiting ++ [m]).take free ∧
       t.lane.holder = (if waiting.length < free then none else some m) ∧
       t.lane.held = if s.lane.holder.toList.length < free then none else s.lane.held)

/-- HUB RESET completes (R166): with the port UP it is answered DONE and no further command is taken; with the port DOWN the
reset takes effect at once. -/
def Sys2Proof.Claims.HubResetArmsOrActs : Prop :=
  ∀ (tag : Byte) (s t : State), s.claim (.hubReset tag) = some t →
    (t.mgmtUp = true → ∃ u, exec (.hubReset tag) s = .next u ∧
      u = (t.mapLane fun l => { l with resetArmed := true }).deliver (.response tag 0x3E#6 .done []) ∧
      u.lane.resetArmed = true ∧ ∀ i : Instr, u.claim i = none) ∧
    (t.mgmtUp = false → ∃ u, exec (.hubReset tag) s = .next u ∧ u.frame = s.frame ∧ u.store = s.store ∧
      u.spokes = State.reset.spokes ∧ u.engine = .reset ∧ u.channels = State.reset.channels ∧
      u.feeds = State.reset.feeds ∧ u.lane.intake = [] ∧ u.lane.resetArmed = false)

/-! ## The statements that take several claims together -/

/-- With an empty queue the turns left of the boundary are taken; then a sample period that arrives passes through the Fabric,
and where none arrives nothing more changes (logs 2, 4, 5, 6, the model's choice); and what a sample period does (R13 to
R17, R19). -/
def Obligations.EmptyQueue : Prop :=
  Claims.EmptyQueueIdles ∧ Claims.EmptyQueuePassesSamples ∧ Claims.EmptyQueueEndsBoundary ∧ Claims.LinesTakeSamples ∧ Claims.AttenuationRounds ∧
    Claims.SumsSaturate ∧ Claims.EnergyMeasured

/-- The latch, the lines it clears and the followed plans (R10 to R13, R76). -/
def Obligations.LatchAndFollowers : Prop :=
  Claims.LatchReadsPlans ∧ Claims.FollowerRule ∧ Claims.LinesClearedAtLatch

/-- TIMEBASE_RELOCK, CARRIER_PORT_LOCK and CARRIER_PORT_LOSS complete (R2 to R4, R6, R135, R164, R166). -/
def Obligations.CarrierPortsAndReference : Prop :=
  Claims.RelockTakesMarker ∧ Claims.PortLockRaisesNothing ∧ Claims.PortLossRaisesSilentPort ∧
    Claims.MgmtPortLossEmptiesLane ∧ Claims.MgmtPortLossResets ∧ Claims.EntriesHandedBack

/-- The isolation request and the class check (R26, R29). -/
def Obligations.IsolationAndClassCheck : Prop :=
  Claims.IsolationSetsHold ∧ Claims.ClassCheckIsolatesMismatch

/-- SPOKE_LINK_LOCK and SPOKE_LINK_LOSS complete (R22, R24, R30). -/
def Obligations.LinkLockAndLoss : Prop :=
  Claims.LinkLockEntersTraining ∧ Claims.LinkLossGoesDark

/-- SAMPLE_GROUP_DAMAGED, NODE_REQUEST_SEND and REPORT_LEAD_BYTE complete (R22, R23, R34, R117, R119). -/
def Obligations.LinkTraffic : Prop :=
  Claims.DamagedGroupCounts ∧ Claims.DamagedGroupQualifies ∧ Claims.RequestSentOldestFirst ∧ Claims.LeadByteBeginsAssembly

/-- REPORT_COMPLETE completes, and the four reports and the marks of damage read as they are written (R34, R35, R174,
R175; logs 12, 18). -/
def Obligations.ReportsQueuedAndRead : Prop :=
  Claims.ReportQueuedOrDiscarded ∧ Claims.ReportsReadAsWritten ∧ Claims.DamageMarked

/-- HELLO_REQUEST_REPEAT, TRAINING_LIMIT and HEALTH_POLL_DUE complete (R30, R32, R40). -/
def Obligations.TrainingAndPolls : Prop :=
  Claims.HelloRequestRepeats ∧ Claims.TrainingLimitIsolates ∧ Claims.PollFallsDue

/-- The evaluations of a group, and GROUP_CALM, which completes (R98, R99). -/
def Obligations.GroupsMove : Prop :=
  Claims.GroupBecomesCalm ∧ Claims.GroupComparesThresholds

/-- When a step is due, and CUTOVER_STEP, which completes (R83 to R85). -/
def Obligations.CutoverSteps : Prop :=
  Claims.StepMovesOneSpoke ∧ Claims.MovedSpokeSettles ∧ Claims.StepDecision

/-- PERSIST_QUALIFY and QUALIFIER_WINDOW_END complete, and the evaluations in every mode (R113, R114, R117 to R123). -/
def Obligations.QualifierTurns : Prop :=
  Claims.PersistQualifies ∧ Claims.WindowEndsIdle ∧ Claims.ConditionWindowEnds ∧ Claims.ErrorsWindowLowered ∧
    Claims.ConditionModes ∧ Claims.ConditionEvaluated ∧ Claims.WholeSpokeEvaluated

/-- CAPTURE_COLLECTION_START and CAPTURE_COLLECTION_END complete (R107 to R110; logs 5, 15, 24). -/
def Obligations.CaptureTurns : Prop :=
  Claims.CollectionBegins ∧ Claims.CollectionEndsInBuffer ∧ Claims.CollectionTapsSamples ∧
    Claims.DepartureMarksCollection

/-- ASSEMBLY_ABANDON and INBOUND_BYTE complete (R155, R156). -/
def Obligations.InboundBytesAssemble : Prop :=
  Claims.StarvedAssemblyAbandoned ∧ Claims.InboundByteAssembles

/-- COMMAND_RESPONSE_TAKEN, RESYNC_RESPONSE_TAKEN, MESSAGE_LEAVES and HUB_RESET_EFFECT complete (R160 to R163, R166), and the
bytes of every message (R167, R168, R172, R173; logs 9, 10, 17, 18). -/
def Obligations.OutboundQueueMoves : Prop :=
  Claims.WaitingResponsesTaken ∧ Claims.OldestMessageLeaves ∧ Claims.ResponseLaidOut ∧ Claims.AlarmNoticeLaidOut ∧
    Claims.DetailLaidOut ∧ Claims.CaptureNoticeLaidOut ∧ Claims.RawSamplesPacked

/-- HUB RESET completes, and what it leaves when it takes effect (R166). -/
def Obligations.HubResetActs : Prop :=
  Claims.HubResetKeepsStore ∧ Claims.HubResetArmsOrActs

/-- How a command is taken and how its response goes out (R157, R158, R160, R163, R164; logs 8, 30). -/
def Obligations.CommandsTakenAndAnswered : Prop :=
  Claims.CommandTakenInOrder ∧ Claims.StartupHoldsCommands ∧ Claims.ResponseDelivered ∧ Claims.MarkedCommandsAnswered

/-- The reading commands complete, and the scale and body of METER READ (R171; logs 9, 20, 26, 27, 28, 32). -/
def Obligations.ReadsAnswer : Prop :=
  Claims.ReadsChangeNothing ∧ Claims.MeterScaleLeast ∧ Claims.MeterBodyLaidOut

/-- SPOKE RESTORE, SPOKE RETRAIN and SPOKE REARM complete (R44, R47, R48). -/
def Obligations.RestoreRetrainRearm : Prop :=
  Claims.RestoreClearsIsolateHold ∧ Claims.RetrainAndRearm

/-- PLAN OPEN, PLAN EDIT and PLAN CLOSE complete (R56, R57, R62). -/
def Obligations.PlanOpenEditClose : Prop :=
  Claims.PlanOpenAndEdit ∧ Claims.PlanCloseAdmits

/-- TRIM POINT and TRIM complete (R69 to R73). -/
def Obligations.TrimPointAndTrim : Prop :=
  Claims.TrimPointSets ∧ Claims.TrimCommitsCell ∧ Claims.TrimLandsInOrder ∧ Claims.ValueLands

/-- CUTOVER and HALT complete, and the ranges of CUTOVER's operands (R82, R87). -/
def Obligations.CutoverAndHalt : Prop :=
  Claims.CutoverStarts ∧ Claims.CutoverRanges ∧ Claims.HaltStopsCutover

/-- STORE ERASE, STORE WRITE and STORE LOCK complete, with their ranges and the in-use check (R150, R152, R153). -/
def Obligations.StoreWorkAndLock : Prop :=
  Claims.StoreWorkStarts ∧ Claims.StoreWriteRanges ∧ Claims.PageReferences ∧ Claims.StoreLockSets

/-- FRAME_BOUNDARY completes: what is left of the last boundary, what the boundary does at once, and the evaluations (R1,
R18 to R20, R28, R30, R40, R83, R95, R98, R99, R114; logs 2, 3, 6, 10, 24, 29). -/
def Obligations.FrameBoundaryAdvances : Prop :=
  Claims.BoundaryCompletes ∧ Claims.BoundaryOpens ∧ Claims.RestEvaluated

/-- REPORT_TAKE completes: the search and what the report does (R36 to R39). -/
def Obligations.ReportTakenActs : Prop :=
  Claims.TakerSearches ∧ Claims.TakenReportActs

/-- A HELLO taken, in TRAINING and after it (R31, R37). -/
def Obligations.HelloEndsTraining : Prop :=
  Claims.HelloInTraining ∧ Claims.HelloInPlace ∧ Claims.HelloTakenByTaker

/-- SETTLE_END completes; how a step and a cutover end (R28, R85 to R88). -/
def Obligations.SettleEndCompletesStep : Prop :=
  Claims.SettleEndTells ∧ Claims.EngineTold ∧ Claims.DepartureTells

/-- FEED SET completes, with the ranges of its operands and what its checks read (R8). -/
def Obligations.FeedSetWrites : Prop :=
  Claims.FeedSetActs ∧ Claims.FeedSetRanges ∧ Claims.FeedChecks

/-- SWEEP ORDER and FOLD complete, and which lists are sweep orders (R81, R88). -/
def Obligations.OrderAndFold : Prop :=
  Claims.OrderAndFoldAct ∧ Claims.OrderIsPermutation

/-- CAPTURE and CAPTURE STOP complete, and the ranges of CAPTURE's operands (R106, R111). -/
def Obligations.CaptureRequestsAndStop : Prop :=
  Claims.CaptureActs ∧ Claims.CaptureRanges

/-- QUALIFY completes, and the ranges of its operands (R126). -/
def Obligations.QualifySetsKind : Prop :=
  Claims.QualifyActs ∧ Claims.QualifyRanges

/-- ALARM_PRESENTATION and CAPTURE_NOTICE_ENQUEUE complete; which channel is chosen, and the parts of its notice (R110, R132,
R133). -/
def Obligations.NoticesTaken : Prop :=
  Claims.NoticesEnter ∧ Claims.ChannelChosen ∧ Claims.NoticeParts

/-- Admission: what a plan that passes satisfies, when a plan passes, and which failure is found first (R63 to R67, R146). -/
def Obligations.AdmissionPassesAllChecks : Prop :=
  Claims.AdmittedPlanPasses ∧ Claims.AdmissionFindsFirst ∧ Claims.RecordsRead

/-- COMMAND_COMPLETE completes a message, and the message of every command is whole (R156 to R158, R167; log 18). -/
def Obligations.CompletedCommandOffered : Prop :=
  Claims.MessageSorted ∧ Claims.CommandsAreWhole

/-- WATCH SET and WATCH OFF complete, and the ranges of a relief (R102, R103). -/
def Obligations.WatchSetAndOff : Prop :=
  Claims.WatchSetActs ∧ Claims.ReliefRanges
end

