-- ==== Sys2Proof/Laws/State.lean ====
section
/-! SUPPORT. What each update of State leaves in each field: one lemma for each field and update, true by definition, so that
no proof unfolds a record update. -/

namespace Sys2Proof.Machine

variable (s : State)

/-! ## mapSpoke -/

@[simp] theorem mapSpoke_pending (i : SpokeId) (f : SpokeRec → SpokeRec) : (s.mapSpoke i f).pending = s.pending := rfl
@[simp] theorem mapSpoke_arriving (i : SpokeId) (f : SpokeRec → SpokeRec) : (s.mapSpoke i f).arriving = s.arriving := rfl
@[simp] theorem mapSpoke_freeCount (i : SpokeId) (f : SpokeRec → SpokeRec) : (s.mapSpoke i f).freeCount = s.freeCount := rfl
@[simp] theorem mapSpoke_frame (i : SpokeId) (f : SpokeRec → SpokeRec) : (s.mapSpoke i f).frame = s.frame := rfl
@[simp] theorem mapSpoke_reference (i : SpokeId) (f : SpokeRec → SpokeRec) : (s.mapSpoke i f).reference = s.reference := rfl
@[simp] theorem mapSpoke_markerSkipped (i : SpokeId) (f : SpokeRec → SpokeRec) : (s.mapSpoke i f).markerSkipped = s.markerSkipped := rfl
@[simp] theorem mapSpoke_mgmtPort (i : SpokeId) (f : SpokeRec → SpokeRec) : (s.mapSpoke i f).mgmtPort = s.mgmtPort := rfl
@[simp] theorem mapSpoke_ports (i : SpokeId) (f : SpokeRec → SpokeRec) : (s.mapSpoke i f).ports = s.ports := rfl
@[simp] theorem mapSpoke_feeds (i : SpokeId) (f : SpokeRec → SpokeRec) : (s.mapSpoke i f).feeds = s.feeds := rfl
@[simp] theorem mapSpoke_fabric (i : SpokeId) (f : SpokeRec → SpokeRec) : (s.mapSpoke i f).fabric = s.fabric := rfl
@[simp] theorem mapSpoke_links (i : SpokeId) (f : SpokeRec → SpokeRec) : (s.mapSpoke i f).links = s.links := rfl
@[simp] theorem mapSpoke_spokes (i : SpokeId) (f : SpokeRec → SpokeRec) : (s.mapSpoke i f).spokes = update s.spokes i f := rfl
@[simp] theorem mapSpoke_restoreSettle (i : SpokeId) (f : SpokeRec → SpokeRec) : (s.mapSpoke i f).restoreSettle = s.restoreSettle := rfl
@[simp] theorem mapSpoke_pollPeriod (i : SpokeId) (f : SpokeRec → SpokeRec) : (s.mapSpoke i f).pollPeriod = s.pollPeriod := rfl
@[simp] theorem mapSpoke_takerPos (i : SpokeId) (f : SpokeRec → SpokeRec) : (s.mapSpoke i f).takerPos = s.takerPos := rfl
@[simp] theorem mapSpoke_slots (i : SpokeId) (f : SpokeRec → SpokeRec) : (s.mapSpoke i f).slots = s.slots := rfl
@[simp] theorem mapSpoke_pointer (i : SpokeId) (f : SpokeRec → SpokeRec) : (s.mapSpoke i f).pointer = s.pointer := rfl
@[simp] theorem mapSpoke_staging (i : SpokeId) (f : SpokeRec → SpokeRec) : (s.mapSpoke i f).staging = s.staging := rfl
@[simp] theorem mapSpoke_engine (i : SpokeId) (f : SpokeRec → SpokeRec) : (s.mapSpoke i f).engine = s.engine := rfl
@[simp] theorem mapSpoke_meters (i : SpokeId) (f : SpokeRec → SpokeRec) : (s.mapSpoke i f).meters = s.meters := rfl
@[simp] theorem mapSpoke_groups (i : SpokeId) (f : SpokeRec → SpokeRec) : (s.mapSpoke i f).groups = s.groups := rfl
@[simp] theorem mapSpoke_capture (i : SpokeId) (f : SpokeRec → SpokeRec) : (s.mapSpoke i f).capture = s.capture := rfl
@[simp] theorem mapSpoke_settings (i : SpokeId) (f : SpokeRec → SpokeRec) : (s.mapSpoke i f).settings = s.settings := rfl
@[simp] theorem mapSpoke_quals (i : SpokeId) (f : SpokeRec → SpokeRec) : (s.mapSpoke i f).quals = s.quals := rfl
@[simp] theorem mapSpoke_handed (i : SpokeId) (f : SpokeRec → SpokeRec) : (s.mapSpoke i f).handed = s.handed := rfl
@[simp] theorem mapSpoke_channels (i : SpokeId) (f : SpokeRec → SpokeRec) : (s.mapSpoke i f).channels = s.channels := rfl
@[simp] theorem mapSpoke_tracking (i : SpokeId) (f : SpokeRec → SpokeRec) : (s.mapSpoke i f).tracking = s.tracking := rfl
@[simp] theorem mapSpoke_store (i : SpokeId) (f : SpokeRec → SpokeRec) : (s.mapSpoke i f).store = s.store := rfl
@[simp] theorem mapSpoke_lane (i : SpokeId) (f : SpokeRec → SpokeRec) : (s.mapSpoke i f).lane = s.lane := rfl
@[simp] theorem mapSpoke_due (i : SpokeId) (f : SpokeRec → SpokeRec) : (s.mapSpoke i f).due = s.due := rfl

/-! ## mapLink -/

@[simp] theorem mapLink_pending (i : SpokeId) (f : Link → Link) : (s.mapLink i f).pending = s.pending := rfl
@[simp] theorem mapLink_arriving (i : SpokeId) (f : Link → Link) : (s.mapLink i f).arriving = s.arriving := rfl
@[simp] theorem mapLink_freeCount (i : SpokeId) (f : Link → Link) : (s.mapLink i f).freeCount = s.freeCount := rfl
@[simp] theorem mapLink_frame (i : SpokeId) (f : Link → Link) : (s.mapLink i f).frame = s.frame := rfl
@[simp] theorem mapLink_reference (i : SpokeId) (f : Link → Link) : (s.mapLink i f).reference = s.reference := rfl
@[simp] theorem mapLink_markerSkipped (i : SpokeId) (f : Link → Link) : (s.mapLink i f).markerSkipped = s.markerSkipped := rfl
@[simp] theorem mapLink_mgmtPort (i : SpokeId) (f : Link → Link) : (s.mapLink i f).mgmtPort = s.mgmtPort := rfl
@[simp] theorem mapLink_ports (i : SpokeId) (f : Link → Link) : (s.mapLink i f).ports = s.ports := rfl
@[simp] theorem mapLink_feeds (i : SpokeId) (f : Link → Link) : (s.mapLink i f).feeds = s.feeds := rfl
@[simp] theorem mapLink_fabric (i : SpokeId) (f : Link → Link) : (s.mapLink i f).fabric = s.fabric := rfl
@[simp] theorem mapLink_links (i : SpokeId) (f : Link → Link) : (s.mapLink i f).links = update s.links i f := rfl
@[simp] theorem mapLink_spokes (i : SpokeId) (f : Link → Link) : (s.mapLink i f).spokes = s.spokes := rfl
@[simp] theorem mapLink_restoreSettle (i : SpokeId) (f : Link → Link) : (s.mapLink i f).restoreSettle = s.restoreSettle := rfl
@[simp] theorem mapLink_pollPeriod (i : SpokeId) (f : Link → Link) : (s.mapLink i f).pollPeriod = s.pollPeriod := rfl
@[simp] theorem mapLink_takerPos (i : SpokeId) (f : Link → Link) : (s.mapLink i f).takerPos = s.takerPos := rfl
@[simp] theorem mapLink_slots (i : SpokeId) (f : Link → Link) : (s.mapLink i f).slots = s.slots := rfl
@[simp] theorem mapLink_pointer (i : SpokeId) (f : Link → Link) : (s.mapLink i f).pointer = s.pointer := rfl
@[simp] theorem mapLink_staging (i : SpokeId) (f : Link → Link) : (s.mapLink i f).staging = s.staging := rfl
@[simp] theorem mapLink_engine (i : SpokeId) (f : Link → Link) : (s.mapLink i f).engine = s.engine := rfl
@[simp] theorem mapLink_meters (i : SpokeId) (f : Link → Link) : (s.mapLink i f).meters = s.meters := rfl
@[simp] theorem mapLink_groups (i : SpokeId) (f : Link → Link) : (s.mapLink i f).groups = s.groups := rfl
@[simp] theorem mapLink_capture (i : SpokeId) (f : Link → Link) : (s.mapLink i f).capture = s.capture := rfl
@[simp] theorem mapLink_settings (i : SpokeId) (f : Link → Link) : (s.mapLink i f).settings = s.settings := rfl
@[simp] theorem mapLink_quals (i : SpokeId) (f : Link → Link) : (s.mapLink i f).quals = s.quals := rfl
@[simp] theorem mapLink_handed (i : SpokeId) (f : Link → Link) : (s.mapLink i f).handed = s.handed := rfl
@[simp] theorem mapLink_channels (i : SpokeId) (f : Link → Link) : (s.mapLink i f).channels = s.channels := rfl
@[simp] theorem mapLink_tracking (i : SpokeId) (f : Link → Link) : (s.mapLink i f).tracking = s.tracking := rfl
@[simp] theorem mapLink_store (i : SpokeId) (f : Link → Link) : (s.mapLink i f).store = s.store := rfl
@[simp] theorem mapLink_lane (i : SpokeId) (f : Link → Link) : (s.mapLink i f).lane = s.lane := rfl
@[simp] theorem mapLink_due (i : SpokeId) (f : Link → Link) : (s.mapLink i f).due = s.due := rfl

/-! ## raise -/

@[simp] theorem raise_pending (ch : ChannelId) (src : Option Nat) (d : Detail) : (s.raise ch src d).pending = s.pending := rfl
@[simp] theorem raise_arriving (ch : ChannelId) (src : Option Nat) (d : Detail) : (s.raise ch src d).arriving = s.arriving := rfl
@[simp] theorem raise_freeCount (ch : ChannelId) (src : Option Nat) (d : Detail) : (s.raise ch src d).freeCount = s.freeCount := rfl
@[simp] theorem raise_frame (ch : ChannelId) (src : Option Nat) (d : Detail) : (s.raise ch src d).frame = s.frame := rfl
@[simp] theorem raise_reference (ch : ChannelId) (src : Option Nat) (d : Detail) : (s.raise ch src d).reference = s.reference := rfl
@[simp] theorem raise_markerSkipped (ch : ChannelId) (src : Option Nat) (d : Detail) : (s.raise ch src d).markerSkipped = s.markerSkipped := rfl
@[simp] theorem raise_mgmtPort (ch : ChannelId) (src : Option Nat) (d : Detail) : (s.raise ch src d).mgmtPort = s.mgmtPort := rfl
@[simp] theorem raise_ports (ch : ChannelId) (src : Option Nat) (d : Detail) : (s.raise ch src d).ports = s.ports := rfl
@[simp] theorem raise_feeds (ch : ChannelId) (src : Option Nat) (d : Detail) : (s.raise ch src d).feeds = s.feeds := rfl
@[simp] theorem raise_fabric (ch : ChannelId) (src : Option Nat) (d : Detail) : (s.raise ch src d).fabric = s.fabric := rfl
@[simp] theorem raise_links (ch : ChannelId) (src : Option Nat) (d : Detail) : (s.raise ch src d).links = s.links := rfl
@[simp] theorem raise_spokes (ch : ChannelId) (src : Option Nat) (d : Detail) : (s.raise ch src d).spokes = s.spokes := rfl
@[simp] theorem raise_restoreSettle (ch : ChannelId) (src : Option Nat) (d : Detail) : (s.raise ch src d).restoreSettle = s.restoreSettle := rfl
@[simp] theorem raise_pollPeriod (ch : ChannelId) (src : Option Nat) (d : Detail) : (s.raise ch src d).pollPeriod = s.pollPeriod := rfl
@[simp] theorem raise_takerPos (ch : ChannelId) (src : Option Nat) (d : Detail) : (s.raise ch src d).takerPos = s.takerPos := rfl
@[simp] theorem raise_slots (ch : ChannelId) (src : Option Nat) (d : Detail) : (s.raise ch src d).slots = s.slots := rfl
@[simp] theorem raise_pointer (ch : ChannelId) (src : Option Nat) (d : Detail) : (s.raise ch src d).pointer = s.pointer := rfl
@[simp] theorem raise_staging (ch : ChannelId) (src : Option Nat) (d : Detail) : (s.raise ch src d).staging = s.staging := rfl
@[simp] theorem raise_engine (ch : ChannelId) (src : Option Nat) (d : Detail) : (s.raise ch src d).engine = s.engine := rfl
@[simp] theorem raise_meters (ch : ChannelId) (src : Option Nat) (d : Detail) : (s.raise ch src d).meters = s.meters := rfl
@[simp] theorem raise_groups (ch : ChannelId) (src : Option Nat) (d : Detail) : (s.raise ch src d).groups = s.groups := rfl
@[simp] theorem raise_capture (ch : ChannelId) (src : Option Nat) (d : Detail) : (s.raise ch src d).capture = s.capture := rfl
@[simp] theorem raise_settings (ch : ChannelId) (src : Option Nat) (d : Detail) : (s.raise ch src d).settings = s.settings := rfl
@[simp] theorem raise_quals (ch : ChannelId) (src : Option Nat) (d : Detail) : (s.raise ch src d).quals = s.quals := rfl
@[simp] theorem raise_handed (ch : ChannelId) (src : Option Nat) (d : Detail) : (s.raise ch src d).handed = s.handed := rfl
@[simp] theorem raise_channels (ch : ChannelId) (src : Option Nat) (d : Detail) : (s.raise ch src d).channels = update s.channels ch (Channel.raise s.frame src d) := rfl
@[simp] theorem raise_tracking (ch : ChannelId) (src : Option Nat) (d : Detail) : (s.raise ch src d).tracking = s.tracking := rfl
@[simp] theorem raise_store (ch : ChannelId) (src : Option Nat) (d : Detail) : (s.raise ch src d).store = s.store := rfl
@[simp] theorem raise_lane (ch : ChannelId) (src : Option Nat) (d : Detail) : (s.raise ch src d).lane = s.lane := rfl
@[simp] theorem raise_due (ch : ChannelId) (src : Option Nat) (d : Detail) : (s.raise ch src d).due = s.due := rfl

/-! ## setQual -/

@[simp] theorem setQual_pending (i : SpokeId) (k : FaultKind) (q : QualRec) : (s.setQual i k q).pending = s.pending := rfl
@[simp] theorem setQual_arriving (i : SpokeId) (k : FaultKind) (q : QualRec) : (s.setQual i k q).arriving = s.arriving := rfl
@[simp] theorem setQual_freeCount (i : SpokeId) (k : FaultKind) (q : QualRec) : (s.setQual i k q).freeCount = s.freeCount := rfl
@[simp] theorem setQual_frame (i : SpokeId) (k : FaultKind) (q : QualRec) : (s.setQual i k q).frame = s.frame := rfl
@[simp] theorem setQual_reference (i : SpokeId) (k : FaultKind) (q : QualRec) : (s.setQual i k q).reference = s.reference := rfl
@[simp] theorem setQual_markerSkipped (i : SpokeId) (k : FaultKind) (q : QualRec) : (s.setQual i k q).markerSkipped = s.markerSkipped := rfl
@[simp] theorem setQual_mgmtPort (i : SpokeId) (k : FaultKind) (q : QualRec) : (s.setQual i k q).mgmtPort = s.mgmtPort := rfl
@[simp] theorem setQual_ports (i : SpokeId) (k : FaultKind) (q : QualRec) : (s.setQual i k q).ports = s.ports := rfl
@[simp] theorem setQual_feeds (i : SpokeId) (k : FaultKind) (q : QualRec) : (s.setQual i k q).feeds = s.feeds := rfl
@[simp] theorem setQual_fabric (i : SpokeId) (k : FaultKind) (q : QualRec) : (s.setQual i k q).fabric = s.fabric := rfl
@[simp] theorem setQual_links (i : SpokeId) (k : FaultKind) (q : QualRec) : (s.setQual i k q).links = s.links := rfl
@[simp] theorem setQual_spokes (i : SpokeId) (k : FaultKind) (q : QualRec) : (s.setQual i k q).spokes = s.spokes := rfl
@[simp] theorem setQual_restoreSettle (i : SpokeId) (k : FaultKind) (q : QualRec) : (s.setQual i k q).restoreSettle = s.restoreSettle := rfl
@[simp] theorem setQual_pollPeriod (i : SpokeId) (k : FaultKind) (q : QualRec) : (s.setQual i k q).pollPeriod = s.pollPeriod := rfl
@[simp] theorem setQual_takerPos (i : SpokeId) (k : FaultKind) (q : QualRec) : (s.setQual i k q).takerPos = s.takerPos := rfl
@[simp] theorem setQual_slots (i : SpokeId) (k : FaultKind) (q : QualRec) : (s.setQual i k q).slots = s.slots := rfl
@[simp] theorem setQual_pointer (i : SpokeId) (k : FaultKind) (q : QualRec) : (s.setQual i k q).pointer = s.pointer := rfl
@[simp] theorem setQual_staging (i : SpokeId) (k : FaultKind) (q : QualRec) : (s.setQual i k q).staging = s.staging := rfl
@[simp] theorem setQual_engine (i : SpokeId) (k : FaultKind) (q : QualRec) : (s.setQual i k q).engine = s.engine := rfl
@[simp] theorem setQual_meters (i : SpokeId) (k : FaultKind) (q : QualRec) : (s.setQual i k q).meters = s.meters := rfl
@[simp] theorem setQual_groups (i : SpokeId) (k : FaultKind) (q : QualRec) : (s.setQual i k q).groups = s.groups := rfl
@[simp] theorem setQual_capture (i : SpokeId) (k : FaultKind) (q : QualRec) : (s.setQual i k q).capture = s.capture := rfl
@[simp] theorem setQual_settings (i : SpokeId) (k : FaultKind) (q : QualRec) : (s.setQual i k q).settings = s.settings := rfl
@[simp] theorem setQual_quals (i : SpokeId) (k : FaultKind) (q : QualRec) : (s.setQual i k q).quals = update s.quals i fun row => row.set (kindIndex k) q := rfl
@[simp] theorem setQual_handed (i : SpokeId) (k : FaultKind) (q : QualRec) : (s.setQual i k q).handed = s.handed := rfl
@[simp] theorem setQual_channels (i : SpokeId) (k : FaultKind) (q : QualRec) : (s.setQual i k q).channels = s.channels := rfl
@[simp] theorem setQual_tracking (i : SpokeId) (k : FaultKind) (q : QualRec) : (s.setQual i k q).tracking = s.tracking := rfl
@[simp] theorem setQual_store (i : SpokeId) (k : FaultKind) (q : QualRec) : (s.setQual i k q).store = s.store := rfl
@[simp] theorem setQual_lane (i : SpokeId) (k : FaultKind) (q : QualRec) : (s.setQual i k q).lane = s.lane := rfl
@[simp] theorem setQual_due (i : SpokeId) (k : FaultKind) (q : QualRec) : (s.setQual i k q).due = s.due := rfl

/-! ## mapLane -/

@[simp] theorem mapLane_pending (f : Lane → Lane) : (s.mapLane f).pending = s.pending := rfl
@[simp] theorem mapLane_arriving (f : Lane → Lane) : (s.mapLane f).arriving = s.arriving := rfl
@[simp] theorem mapLane_freeCount (f : Lane → Lane) : (s.mapLane f).freeCount = s.freeCount := rfl
@[simp] theorem mapLane_frame (f : Lane → Lane) : (s.mapLane f).frame = s.frame := rfl
@[simp] theorem mapLane_reference (f : Lane → Lane) : (s.mapLane f).reference = s.reference := rfl
@[simp] theorem mapLane_markerSkipped (f : Lane → Lane) : (s.mapLane f).markerSkipped = s.markerSkipped := rfl
@[simp] theorem mapLane_mgmtPort (f : Lane → Lane) : (s.mapLane f).mgmtPort = s.mgmtPort := rfl
@[simp] theorem mapLane_ports (f : Lane → Lane) : (s.mapLane f).ports = s.ports := rfl
@[simp] theorem mapLane_feeds (f : Lane → Lane) : (s.mapLane f).feeds = s.feeds := rfl
@[simp] theorem mapLane_fabric (f : Lane → Lane) : (s.mapLane f).fabric = s.fabric := rfl
@[simp] theorem mapLane_links (f : Lane → Lane) : (s.mapLane f).links = s.links := rfl
@[simp] theorem mapLane_spokes (f : Lane → Lane) : (s.mapLane f).spokes = s.spokes := rfl
@[simp] theorem mapLane_restoreSettle (f : Lane → Lane) : (s.mapLane f).restoreSettle = s.restoreSettle := rfl
@[simp] theorem mapLane_pollPeriod (f : Lane → Lane) : (s.mapLane f).pollPeriod = s.pollPeriod := rfl
@[simp] theorem mapLane_takerPos (f : Lane → Lane) : (s.mapLane f).takerPos = s.takerPos := rfl
@[simp] theorem mapLane_slots (f : Lane → Lane) : (s.mapLane f).slots = s.slots := rfl
@[simp] theorem mapLane_pointer (f : Lane → Lane) : (s.mapLane f).pointer = s.pointer := rfl
@[simp] theorem mapLane_staging (f : Lane → Lane) : (s.mapLane f).staging = s.staging := rfl
@[simp] theorem mapLane_engine (f : Lane → Lane) : (s.mapLane f).engine = s.engine := rfl
@[simp] theorem mapLane_meters (f : Lane → Lane) : (s.mapLane f).meters = s.meters := rfl
@[simp] theorem mapLane_groups (f : Lane → Lane) : (s.mapLane f).groups = s.groups := rfl
@[simp] theorem mapLane_capture (f : Lane → Lane) : (s.mapLane f).capture = s.capture := rfl
@[simp] theorem mapLane_settings (f : Lane → Lane) : (s.mapLane f).settings = s.settings := rfl
@[simp] theorem mapLane_quals (f : Lane → Lane) : (s.mapLane f).quals = s.quals := rfl
@[simp] theorem mapLane_handed (f : Lane → Lane) : (s.mapLane f).handed = s.handed := rfl
@[simp] theorem mapLane_channels (f : Lane → Lane) : (s.mapLane f).channels = s.channels := rfl
@[simp] theorem mapLane_tracking (f : Lane → Lane) : (s.mapLane f).tracking = s.tracking := rfl
@[simp] theorem mapLane_store (f : Lane → Lane) : (s.mapLane f).store = s.store := rfl
@[simp] theorem mapLane_lane (f : Lane → Lane) : (s.mapLane f).lane = f s.lane := rfl
@[simp] theorem mapLane_due (f : Lane → Lane) : (s.mapLane f).due = s.due := rfl

/-! ## mapEngine -/

@[simp] theorem mapEngine_pending (f : Engine → Engine) : (s.mapEngine f).pending = s.pending := rfl
@[simp] theorem mapEngine_arriving (f : Engine → Engine) : (s.mapEngine f).arriving = s.arriving := rfl
@[simp] theorem mapEngine_freeCount (f : Engine → Engine) : (s.mapEngine f).freeCount = s.freeCount := rfl
@[simp] theorem mapEngine_frame (f : Engine → Engine) : (s.mapEngine f).frame = s.frame := rfl
@[simp] theorem mapEngine_reference (f : Engine → Engine) : (s.mapEngine f).reference = s.reference := rfl
@[simp] theorem mapEngine_markerSkipped (f : Engine → Engine) : (s.mapEngine f).markerSkipped = s.markerSkipped := rfl
@[simp] theorem mapEngine_mgmtPort (f : Engine → Engine) : (s.mapEngine f).mgmtPort = s.mgmtPort := rfl
@[simp] theorem mapEngine_ports (f : Engine → Engine) : (s.mapEngine f).ports = s.ports := rfl
@[simp] theorem mapEngine_feeds (f : Engine → Engine) : (s.mapEngine f).feeds = s.feeds := rfl
@[simp] theorem mapEngine_fabric (f : Engine → Engine) : (s.mapEngine f).fabric = s.fabric := rfl
@[simp] theorem mapEngine_links (f : Engine → Engine) : (s.mapEngine f).links = s.links := rfl
@[simp] theorem mapEngine_spokes (f : Engine → Engine) : (s.mapEngine f).spokes = s.spokes := rfl
@[simp] theorem mapEngine_restoreSettle (f : Engine → Engine) : (s.mapEngine f).restoreSettle = s.restoreSettle := rfl
@[simp] theorem mapEngine_pollPeriod (f : Engine → Engine) : (s.mapEngine f).pollPeriod = s.pollPeriod := rfl
@[simp] theorem mapEngine_takerPos (f : Engine → Engine) : (s.mapEngine f).takerPos = s.takerPos := rfl
@[simp] theorem mapEngine_slots (f : Engine → Engine) : (s.mapEngine f).slots = s.slots := rfl
@[simp] theorem mapEngine_pointer (f : Engine → Engine) : (s.mapEngine f).pointer = s.pointer := rfl
@[simp] theorem mapEngine_staging (f : Engine → Engine) : (s.mapEngine f).staging = s.staging := rfl
@[simp] theorem mapEngine_engine (f : Engine → Engine) : (s.mapEngine f).engine = f s.engine := rfl
@[simp] theorem mapEngine_meters (f : Engine → Engine) : (s.mapEngine f).meters = s.meters := rfl
@[simp] theorem mapEngine_groups (f : Engine → Engine) : (s.mapEngine f).groups = s.groups := rfl
@[simp] theorem mapEngine_capture (f : Engine → Engine) : (s.mapEngine f).capture = s.capture := rfl
@[simp] theorem mapEngine_settings (f : Engine → Engine) : (s.mapEngine f).settings = s.settings := rfl
@[simp] theorem mapEngine_quals (f : Engine → Engine) : (s.mapEngine f).quals = s.quals := rfl
@[simp] theorem mapEngine_handed (f : Engine → Engine) : (s.mapEngine f).handed = s.handed := rfl
@[simp] theorem mapEngine_channels (f : Engine → Engine) : (s.mapEngine f).channels = s.channels := rfl
@[simp] theorem mapEngine_tracking (f : Engine → Engine) : (s.mapEngine f).tracking = s.tracking := rfl
@[simp] theorem mapEngine_store (f : Engine → Engine) : (s.mapEngine f).store = s.store := rfl
@[simp] theorem mapEngine_lane (f : Engine → Engine) : (s.mapEngine f).lane = s.lane := rfl
@[simp] theorem mapEngine_due (f : Engine → Engine) : (s.mapEngine f).due = s.due := rfl

/-! ## setSlot -/

@[simp] theorem setSlot_pending (k : SlotId) (v : PlanSlot) : (s.setSlot k v).pending = s.pending := rfl
@[simp] theorem setSlot_arriving (k : SlotId) (v : PlanSlot) : (s.setSlot k v).arriving = s.arriving := rfl
@[simp] theorem setSlot_freeCount (k : SlotId) (v : PlanSlot) : (s.setSlot k v).freeCount = s.freeCount := rfl
@[simp] theorem setSlot_frame (k : SlotId) (v : PlanSlot) : (s.setSlot k v).frame = s.frame := rfl
@[simp] theorem setSlot_reference (k : SlotId) (v : PlanSlot) : (s.setSlot k v).reference = s.reference := rfl
@[simp] theorem setSlot_markerSkipped (k : SlotId) (v : PlanSlot) : (s.setSlot k v).markerSkipped = s.markerSkipped := rfl
@[simp] theorem setSlot_mgmtPort (k : SlotId) (v : PlanSlot) : (s.setSlot k v).mgmtPort = s.mgmtPort := rfl
@[simp] theorem setSlot_ports (k : SlotId) (v : PlanSlot) : (s.setSlot k v).ports = s.ports := rfl
@[simp] theorem setSlot_feeds (k : SlotId) (v : PlanSlot) : (s.setSlot k v).feeds = s.feeds := rfl
@[simp] theorem setSlot_fabric (k : SlotId) (v : PlanSlot) : (s.setSlot k v).fabric = s.fabric := rfl
@[simp] theorem setSlot_links (k : SlotId) (v : PlanSlot) : (s.setSlot k v).links = s.links := rfl
@[simp] theorem setSlot_spokes (k : SlotId) (v : PlanSlot) : (s.setSlot k v).spokes = s.spokes := rfl
@[simp] theorem setSlot_restoreSettle (k : SlotId) (v : PlanSlot) : (s.setSlot k v).restoreSettle = s.restoreSettle := rfl
@[simp] theorem setSlot_pollPeriod (k : SlotId) (v : PlanSlot) : (s.setSlot k v).pollPeriod = s.pollPeriod := rfl
@[simp] theorem setSlot_takerPos (k : SlotId) (v : PlanSlot) : (s.setSlot k v).takerPos = s.takerPos := rfl
@[simp] theorem setSlot_slots (k : SlotId) (v : PlanSlot) : (s.setSlot k v).slots = s.slots.set k v := rfl
@[simp] theorem setSlot_pointer (k : SlotId) (v : PlanSlot) : (s.setSlot k v).pointer = s.pointer := rfl
@[simp] theorem setSlot_staging (k : SlotId) (v : PlanSlot) : (s.setSlot k v).staging = s.staging := rfl
@[simp] theorem setSlot_engine (k : SlotId) (v : PlanSlot) : (s.setSlot k v).engine = s.engine := rfl
@[simp] theorem setSlot_meters (k : SlotId) (v : PlanSlot) : (s.setSlot k v).meters = s.meters := rfl
@[simp] theorem setSlot_groups (k : SlotId) (v : PlanSlot) : (s.setSlot k v).groups = s.groups := rfl
@[simp] theorem setSlot_capture (k : SlotId) (v : PlanSlot) : (s.setSlot k v).capture = s.capture := rfl
@[simp] theorem setSlot_settings (k : SlotId) (v : PlanSlot) : (s.setSlot k v).settings = s.settings := rfl
@[simp] theorem setSlot_quals (k : SlotId) (v : PlanSlot) : (s.setSlot k v).quals = s.quals := rfl
@[simp] theorem setSlot_handed (k : SlotId) (v : PlanSlot) : (s.setSlot k v).handed = s.handed := rfl
@[simp] theorem setSlot_channels (k : SlotId) (v : PlanSlot) : (s.setSlot k v).channels = s.channels := rfl
@[simp] theorem setSlot_tracking (k : SlotId) (v : PlanSlot) : (s.setSlot k v).tracking = s.tracking := rfl
@[simp] theorem setSlot_store (k : SlotId) (v : PlanSlot) : (s.setSlot k v).store = s.store := rfl
@[simp] theorem setSlot_lane (k : SlotId) (v : PlanSlot) : (s.setSlot k v).lane = s.lane := rfl
@[simp] theorem setSlot_due (k : SlotId) (v : PlanSlot) : (s.setSlot k v).due = s.due := rfl

/-! ## mapGroup -/

@[simp] theorem mapGroup_pending (g : GroupId) (f : Group → Group) : (s.mapGroup g f).pending = s.pending := rfl
@[simp] theorem mapGroup_arriving (g : GroupId) (f : Group → Group) : (s.mapGroup g f).arriving = s.arriving := rfl
@[simp] theorem mapGroup_freeCount (g : GroupId) (f : Group → Group) : (s.mapGroup g f).freeCount = s.freeCount := rfl
@[simp] theorem mapGroup_frame (g : GroupId) (f : Group → Group) : (s.mapGroup g f).frame = s.frame := rfl
@[simp] theorem mapGroup_reference (g : GroupId) (f : Group → Group) : (s.mapGroup g f).reference = s.reference := rfl
@[simp] theorem mapGroup_markerSkipped (g : GroupId) (f : Group → Group) : (s.mapGroup g f).markerSkipped = s.markerSkipped := rfl
@[simp] theorem mapGroup_mgmtPort (g : GroupId) (f : Group → Group) : (s.mapGroup g f).mgmtPort = s.mgmtPort := rfl
@[simp] theorem mapGroup_ports (g : GroupId) (f : Group → Group) : (s.mapGroup g f).ports = s.ports := rfl
@[simp] theorem mapGroup_feeds (g : GroupId) (f : Group → Group) : (s.mapGroup g f).feeds = s.feeds := rfl
@[simp] theorem mapGroup_fabric (g : GroupId) (f : Group → Group) : (s.mapGroup g f).fabric = s.fabric := rfl
@[simp] theorem mapGroup_links (g : GroupId) (f : Group → Group) : (s.mapGroup g f).links = s.links := rfl
@[simp] theorem mapGroup_spokes (g : GroupId) (f : Group → Group) : (s.mapGroup g f).spokes = s.spokes := rfl
@[simp] theorem mapGroup_restoreSettle (g : GroupId) (f : Group → Group) : (s.mapGroup g f).restoreSettle = s.restoreSettle := rfl
@[simp] theorem mapGroup_pollPeriod (g : GroupId) (f : Group → Group) : (s.mapGroup g f).pollPeriod = s.pollPeriod := rfl
@[simp] theorem mapGroup_takerPos (g : GroupId) (f : Group → Group) : (s.mapGroup g f).takerPos = s.takerPos := rfl
@[simp] theorem mapGroup_slots (g : GroupId) (f : Group → Group) : (s.mapGroup g f).slots = s.slots := rfl
@[simp] theorem mapGroup_pointer (g : GroupId) (f : Group → Group) : (s.mapGroup g f).pointer = s.pointer := rfl
@[simp] theorem mapGroup_staging (g : GroupId) (f : Group → Group) : (s.mapGroup g f).staging = s.staging := rfl
@[simp] theorem mapGroup_engine (g : GroupId) (f : Group → Group) : (s.mapGroup g f).engine = s.engine := rfl
@[simp] theorem mapGroup_meters (g : GroupId) (f : Group → Group) : (s.mapGroup g f).meters = s.meters := rfl
@[simp] theorem mapGroup_groups (g : GroupId) (f : Group → Group) : (s.mapGroup g f).groups = update s.groups g f := rfl
@[simp] theorem mapGroup_capture (g : GroupId) (f : Group → Group) : (s.mapGroup g f).capture = s.capture := rfl
@[simp] theorem mapGroup_settings (g : GroupId) (f : Group → Group) : (s.mapGroup g f).settings = s.settings := rfl
@[simp] theorem mapGroup_quals (g : GroupId) (f : Group → Group) : (s.mapGroup g f).quals = s.quals := rfl
@[simp] theorem mapGroup_handed (g : GroupId) (f : Group → Group) : (s.mapGroup g f).handed = s.handed := rfl
@[simp] theorem mapGroup_channels (g : GroupId) (f : Group → Group) : (s.mapGroup g f).channels = s.channels := rfl
@[simp] theorem mapGroup_tracking (g : GroupId) (f : Group → Group) : (s.mapGroup g f).tracking = s.tracking := rfl
@[simp] theorem mapGroup_store (g : GroupId) (f : Group → Group) : (s.mapGroup g f).store = s.store := rfl
@[simp] theorem mapGroup_lane (g : GroupId) (f : Group → Group) : (s.mapGroup g f).lane = s.lane := rfl
@[simp] theorem mapGroup_due (g : GroupId) (f : Group → Group) : (s.mapGroup g f).due = s.due := rfl

/-! ## mapCapture -/

@[simp] theorem mapCapture_pending (f : Capture → Capture) : (s.mapCapture f).pending = s.pending := rfl
@[simp] theorem mapCapture_arriving (f : Capture → Capture) : (s.mapCapture f).arriving = s.arriving := rfl
@[simp] theorem mapCapture_freeCount (f : Capture → Capture) : (s.mapCapture f).freeCount = s.freeCount := rfl
@[simp] theorem mapCapture_frame (f : Capture → Capture) : (s.mapCapture f).frame = s.frame := rfl
@[simp] theorem mapCapture_reference (f : Capture → Capture) : (s.mapCapture f).reference = s.reference := rfl
@[simp] theorem mapCapture_markerSkipped (f : Capture → Capture) : (s.mapCapture f).markerSkipped = s.markerSkipped := rfl
@[simp] theorem mapCapture_mgmtPort (f : Capture → Capture) : (s.mapCapture f).mgmtPort = s.mgmtPort := rfl
@[simp] theorem mapCapture_ports (f : Capture → Capture) : (s.mapCapture f).ports = s.ports := rfl
@[simp] theorem mapCapture_feeds (f : Capture → Capture) : (s.mapCapture f).feeds = s.feeds := rfl
@[simp] theorem mapCapture_fabric (f : Capture → Capture) : (s.mapCapture f).fabric = s.fabric := rfl
@[simp] theorem mapCapture_links (f : Capture → Capture) : (s.mapCapture f).links = s.links := rfl
@[simp] theorem mapCapture_spokes (f : Capture → Capture) : (s.mapCapture f).spokes = s.spokes := rfl
@[simp] theorem mapCapture_restoreSettle (f : Capture → Capture) : (s.mapCapture f).restoreSettle = s.restoreSettle := rfl
@[simp] theorem mapCapture_pollPeriod (f : Capture → Capture) : (s.mapCapture f).pollPeriod = s.pollPeriod := rfl
@[simp] theorem mapCapture_takerPos (f : Capture → Capture) : (s.mapCapture f).takerPos = s.takerPos := rfl
@[simp] theorem mapCapture_slots (f : Capture → Capture) : (s.mapCapture f).slots = s.slots := rfl
@[simp] theorem mapCapture_pointer (f : Capture → Capture) : (s.mapCapture f).pointer = s.pointer := rfl
@[simp] theorem mapCapture_staging (f : Capture → Capture) : (s.mapCapture f).staging = s.staging := rfl
@[simp] theorem mapCapture_engine (f : Capture → Capture) : (s.mapCapture f).engine = s.engine := rfl
@[simp] theorem mapCapture_meters (f : Capture → Capture) : (s.mapCapture f).meters = s.meters := rfl
@[simp] theorem mapCapture_groups (f : Capture → Capture) : (s.mapCapture f).groups = s.groups := rfl
@[simp] theorem mapCapture_capture (f : Capture → Capture) : (s.mapCapture f).capture = f s.capture := rfl
@[simp] theorem mapCapture_settings (f : Capture → Capture) : (s.mapCapture f).settings = s.settings := rfl
@[simp] theorem mapCapture_quals (f : Capture → Capture) : (s.mapCapture f).quals = s.quals := rfl
@[simp] theorem mapCapture_handed (f : Capture → Capture) : (s.mapCapture f).handed = s.handed := rfl
@[simp] theorem mapCapture_channels (f : Capture → Capture) : (s.mapCapture f).channels = s.channels := rfl
@[simp] theorem mapCapture_tracking (f : Capture → Capture) : (s.mapCapture f).tracking = s.tracking := rfl
@[simp] theorem mapCapture_store (f : Capture → Capture) : (s.mapCapture f).store = s.store := rfl
@[simp] theorem mapCapture_lane (f : Capture → Capture) : (s.mapCapture f).lane = s.lane := rfl
@[simp] theorem mapCapture_due (f : Capture → Capture) : (s.mapCapture f).due = s.due := rfl

/-! ## mapStore -/

@[simp] theorem mapStore_pending (f : Store → Store) : (s.mapStore f).pending = s.pending := rfl
@[simp] theorem mapStore_arriving (f : Store → Store) : (s.mapStore f).arriving = s.arriving := rfl
@[simp] theorem mapStore_freeCount (f : Store → Store) : (s.mapStore f).freeCount = s.freeCount := rfl
@[simp] theorem mapStore_frame (f : Store → Store) : (s.mapStore f).frame = s.frame := rfl
@[simp] theorem mapStore_reference (f : Store → Store) : (s.mapStore f).reference = s.reference := rfl
@[simp] theorem mapStore_markerSkipped (f : Store → Store) : (s.mapStore f).markerSkipped = s.markerSkipped := rfl
@[simp] theorem mapStore_mgmtPort (f : Store → Store) : (s.mapStore f).mgmtPort = s.mgmtPort := rfl
@[simp] theorem mapStore_ports (f : Store → Store) : (s.mapStore f).ports = s.ports := rfl
@[simp] theorem mapStore_feeds (f : Store → Store) : (s.mapStore f).feeds = s.feeds := rfl
@[simp] theorem mapStore_fabric (f : Store → Store) : (s.mapStore f).fabric = s.fabric := rfl
@[simp] theorem mapStore_links (f : Store → Store) : (s.mapStore f).links = s.links := rfl
@[simp] theorem mapStore_spokes (f : Store → Store) : (s.mapStore f).spokes = s.spokes := rfl
@[simp] theorem mapStore_restoreSettle (f : Store → Store) : (s.mapStore f).restoreSettle = s.restoreSettle := rfl
@[simp] theorem mapStore_pollPeriod (f : Store → Store) : (s.mapStore f).pollPeriod = s.pollPeriod := rfl
@[simp] theorem mapStore_takerPos (f : Store → Store) : (s.mapStore f).takerPos = s.takerPos := rfl
@[simp] theorem mapStore_slots (f : Store → Store) : (s.mapStore f).slots = s.slots := rfl
@[simp] theorem mapStore_pointer (f : Store → Store) : (s.mapStore f).pointer = s.pointer := rfl
@[simp] theorem mapStore_staging (f : Store → Store) : (s.mapStore f).staging = s.staging := rfl
@[simp] theorem mapStore_engine (f : Store → Store) : (s.mapStore f).engine = s.engine := rfl
@[simp] theorem mapStore_meters (f : Store → Store) : (s.mapStore f).meters = s.meters := rfl
@[simp] theorem mapStore_groups (f : Store → Store) : (s.mapStore f).groups = s.groups := rfl
@[simp] theorem mapStore_capture (f : Store → Store) : (s.mapStore f).capture = s.capture := rfl
@[simp] theorem mapStore_settings (f : Store → Store) : (s.mapStore f).settings = s.settings := rfl
@[simp] theorem mapStore_quals (f : Store → Store) : (s.mapStore f).quals = s.quals := rfl
@[simp] theorem mapStore_handed (f : Store → Store) : (s.mapStore f).handed = s.handed := rfl
@[simp] theorem mapStore_channels (f : Store → Store) : (s.mapStore f).channels = s.channels := rfl
@[simp] theorem mapStore_tracking (f : Store → Store) : (s.mapStore f).tracking = s.tracking := rfl
@[simp] theorem mapStore_store (f : Store → Store) : (s.mapStore f).store = f s.store := rfl
@[simp] theorem mapStore_lane (f : Store → Store) : (s.mapStore f).lane = s.lane := rfl
@[simp] theorem mapStore_due (f : Store → Store) : (s.mapStore f).due = s.due := rfl

end Sys2Proof.Machine
end

