-- ==== Sys2Proof/Laws/Tables.lean ====
section
/-! SUPPORT. Reading a table that was filled, mapped or updated. The simp lemmas are in the form to which simp brings a read
at a Fin index. -/

namespace Sys2Proof

variable {α β : Type} {n : Nat}

@[simp] theorem tabulate_val (f : Fin n → α) (i : Fin n) : (tabulate f)[(i : Nat)] = f i := by
  simp [tabulate]

@[simp] theorem mapTable_val (f : α → β) (v : Vector α n) (i : Fin n) : (mapTable f v)[(i : Nat)] = f v[(i : Nat)] := by
  simp [mapTable]

@[simp] theorem update_same_val (v : Vector α n) (i : Fin n) (f : α → α) :
    (update v i f)[(i : Nat)] = f v[(i : Nat)] := by
  simp [update]

theorem tabulate_get (f : Fin n → α) (i : Fin n) : (tabulate f)[i] = f i := tabulate_val f i

theorem mapTable_get (f : α → β) (v : Vector α n) (i : Fin n) : (mapTable f v)[i] = f v[i] := mapTable_val f v i

theorem update_same (v : Vector α n) (i : Fin n) (f : α → α) : (update v i f)[i] = f v[i] := update_same_val v i f

theorem set_same (v : Vector α n) (i : Fin n) (a : α) : (v.set i a)[i] = a := by simp

theorem set_other (v : Vector α n) {i j : Fin n} (a : α) (h : j ≠ i) : (v.set i a)[j] = v[j] := by
  have : (i : Nat) ≠ (j : Nat) := fun e => h (Fin.ext e.symm)
  simp [this]

theorem update_other (v : Vector α n) {i j : Fin n} (f : α → α) (h : j ≠ i) : (update v i f)[j] = v[j] :=
  set_other v _ h

theorem set_get (v : Vector α n) (i j : Fin n) (a : α) : (v.set i a)[j] = if j = i then a else v[j] := by
  split
  · next h => subst h; exact set_same v j a
  · next h => exact set_other v a h

theorem update_get (v : Vector α n) (i j : Fin n) (f : α → α) : (update v i f)[j] = if j = i then f v[i] else v[j] :=
  set_get v i j _

theorem table_ext {v w : Vector α n} (h : ∀ i : Fin n, v[i] = w[i]) : v = w := by
  apply Vector.ext
  intro i hi
  exact h ⟨i, hi⟩

end Sys2Proof
end

