-- ==== Sys2Proof/Laws/Supervisor.lean ====
section
/-! SUPPORT. What the shared operations on a spoke can do, once for each: the fields that change, and the spoke's record. -/

namespace Sys2Proof.Machine

/-! ## Records and channels read after an update -/

theorem mapSpoke_at (s : State) (i j : SpokeId) (f : SpokeRec → SpokeRec) :
    (s.mapSpoke i f).spokes[j] = if j = i then f s.spokes[i] else s.spokes[j] := update_get _ _ _ _

theorem mapLink_at (s : State) (i j : SpokeId) (f : Link → Link) :
    (s.mapLink i f).links[j] = if j = i then f s.links[i] else s.links[j] := update_get _ _ _ _

theorem raise_other (s : State) (ch c : ChannelId) (src : Option Nat) (d : Detail) (h : c ≠ ch) :
    (s.raise ch src d).channels[c] = s.channels[c] := update_other _ _ h

theorem raise_at (s : State) (ch : ChannelId) (src : Option Nat) (d : Detail) :
    (s.raise ch src d).channels[ch] = s.channels[ch].raise s.frame src d := update_same _ _ _

theorem gather_mem (fr : Half) (src : Option Nat) (d : Detail) (l : List SourceEntry) :
    ∃ e ∈ gather fr src d l, e.source = src ∧ e.detail = d := by
  induction l with
  | nil => exact ⟨_, List.mem_singleton.mpr rfl, rfl, rfl⟩
  | cons x xs ih =>
    unfold gather
    split
    · next h => exact ⟨_, List.mem_cons_self, h, rfl⟩
    · obtain ⟨e, a, b⟩ := ih
      exact ⟨e, List.mem_cons_of_mem _ a, b⟩

/-- A raise on an enabled channel leaves an entry with its source and detail. -/
theorem raise_mem (s : State) (ch : ChannelId) (src : Option Nat) (d : Detail) (h : s.channels[ch].enabled = true) :
    ∃ e ∈ (s.raise ch src d).channels[ch].list, e.source = src ∧ e.detail = d := by
  rw [raise_at]
  unfold Channel.raise
  rw [h]
  exact gather_mem _ _ _ _

/-! ## Telling the engine changes the engine and its channel alone -/

theorem endCutover_frame (s : State) (h : Bool) :
    s.endCutover h = { s with engine := (s.endCutover h).engine, channels := (s.endCutover h).channels } := rfl

theorem completeStep_frame (s : State) :
    s.completeStep = { s with engine := s.completeStep.engine, channels := s.completeStep.channels } := by
  unfold State.completeStep
  split
  · rfl
  · dsimp only
    split <;> rfl
  · rfl

theorem tellEngine_frame (s : State) (i : SpokeId) :
    s.tellEngine i = { s with engine := (s.tellEngine i).engine, channels := (s.tellEngine i).channels } := by
  unfold State.tellEngine
  split
  · split
    · exact completeStep_frame s
    · rfl
  · rfl

theorem endCutover_other (s : State) (h : Bool) (c : ChannelId) (n : c ≠ chCutoverEnd) :
    (s.endCutover h).channels[c] = s.channels[c] := by
  unfold State.endCutover
  exact raise_other _ _ _ _ _ n

theorem tellEngine_other (s : State) (i : SpokeId) (c : ChannelId) (n : c ≠ chCutoverEnd) :
    (s.tellEngine i).channels[c] = s.channels[c] := by
  unfold State.tellEngine
  split
  · split
    · unfold State.completeStep
      split
      · rfl
      · dsimp only
        split
        · exact endCutover_other _ _ c n
        · rfl
      · exact endCutover_other _ _ c n
    · rfl
  · rfl

/-- With no step in hand the engine is told nothing. -/
theorem tellEngine_none {s : State} (i : SpokeId) (h : s.engine.current = none) : s.tellEngine i = s := by
  simp [State.tellEngine, h]

theorem departLive_frame (s : State) (i : SpokeId) :
    s.departLive i = { s with
      engine := (s.departLive i).engine, channels := (s.departLive i).channels
      capture := (s.departLive i).capture, due := (s.departLive i).due } := by
  unfold State.departLive
  dsimp only
  conv => lhs; rw [tellEngine_frame]
  rw [tellEngine_frame]

theorem departLive_spokes (s : State) (i : SpokeId) : (s.departLive i).spokes = s.spokes := by rw [departLive_frame]
theorem departLive_links (s : State) (i : SpokeId) : (s.departLive i).links = s.links := by rw [departLive_frame]

/-! ## Moving a spoke -/

theorem moveSpoke_frame (s : State) (i : SpokeId) (f : SpokeRec → SpokeRec) :
    s.moveSpoke i f = { s with
      spokes := update s.spokes i fun r => { f r with settle := 0 }
      engine := (s.moveSpoke i f).engine, channels := (s.moveSpoke i f).channels
      capture := (s.moveSpoke i f).capture, due := (s.moveSpoke i f).due } := by
  unfold State.moveSpoke
  dsimp only
  split
  · conv => lhs; rw [departLive_frame]
    rfl
  · rfl

theorem moveSpoke_spokes (s : State) (i : SpokeId) (f : SpokeRec → SpokeRec) :
    (s.moveSpoke i f).spokes = update s.spokes i fun r => { f r with settle := 0 } := by rw [moveSpoke_frame]

theorem moveSpoke_links (s : State) (i : SpokeId) (f : SpokeRec → SpokeRec) : (s.moveSpoke i f).links = s.links := by
  rw [moveSpoke_frame]

theorem moveSpoke_other (s : State) (i : SpokeId) (f : SpokeRec → SpokeRec) (c : ChannelId) (n : c ≠ chCutoverEnd) :
    (s.moveSpoke i f).channels[c] = s.channels[c] := by
  unfold State.moveSpoke
  dsimp only
  split
  · unfold State.departLive
    exact tellEngine_other _ i c n
  · rfl

/-- With no step in hand a spoke moves with no effect on engine and channels. -/
theorem moveSpoke_quiet (s : State) (i : SpokeId) (f : SpokeRec → SpokeRec) (h : s.engine.current = none) : ∃ k d,
    s.moveSpoke i f = { s with
      spokes := (update s.spokes i fun r => { f r with settle := 0 })
      capture := k, due := d } := by
  unfold State.moveSpoke
  dsimp only
  split
  · unfold State.departLive
    dsimp only
    rw [tellEngine_none i (by exact h)]
    exact ⟨_, _, rfl⟩
  · exact ⟨_, _, rfl⟩

/-- A spoke that is not LIVE moves with no effect elsewhere. -/
theorem moveSpoke_not_live (s : State) (i : SpokeId) (f : SpokeRec → SpokeRec) (h : s.spokes[i].state ≠ .live) :
    s.moveSpoke i f = s.mapSpoke i fun r => { f r with settle := 0 } := by
  unfold State.moveSpoke
  simp only [h, if_false]

/-! ## Isolation, settle starts, class checks -/

theorem isolate_held (s : State) (i : SpokeId) (r : Reason) (h : s.spokes[i].hold.isolates = true) :
    s.isolate i r = s := by
  unfold State.isolate
  simp only [h, if_true]

theorem isolate_frame (s : State) (i : SpokeId) (r : Reason) :
    s.isolate i r = { s with
      spokes := (s.isolate i r).spokes
      engine := (s.isolate i r).engine, channels := (s.isolate i r).channels
      capture := (s.isolate i r).capture, due := (s.isolate i r).due } := by
  unfold State.isolate
  split
  · rfl
  · generalize hm : s.moveSpoke i _ = m
    have h := moveSpoke_frame s i fun x => { x with hold := .isolate r, state := stateWhenIsolated r x.state }
    rw [hm] at h
    rw [h]
    rfl

theorem isolate_links (s : State) (i : SpokeId) (r : Reason) : (s.isolate i r).links = s.links := by rw [isolate_frame]

/-- The records after an isolation request. -/
theorem isolate_spokes (s : State) (i : SpokeId) (r : Reason) : (s.isolate i r).spokes =
    if s.spokes[i].hold.isolates then s.spokes else
      update s.spokes i fun x => { x with hold := .isolate r, state := stateWhenIsolated r x.state, settle := 0 } := by
  unfold State.isolate
  split
  · rfl
  · rw [raise_spokes, moveSpoke_spokes]

theorem isolate_other (s : State) (i : SpokeId) (r : Reason) (c : ChannelId) (n : c ≠ chCutoverEnd)
    (m : c ≠ chIsolation) : (s.isolate i r).channels[c] = s.channels[c] := by
  unfold State.isolate
  split
  · rfl
  · rw [raise_other _ _ _ _ _ m, moveSpoke_other _ _ _ _ n]

/-- ISOLATION after an isolation request that finds no isolate hold. -/
theorem isolate_raises (s : State) (i : SpokeId) (r : Reason) (h : s.spokes[i].hold.isolates = false) :
    (s.isolate i r).channels[chIsolation] =
      s.channels[chIsolation].raise s.frame (some i.val) (.isolation r) := by
  unfold State.isolate
  rw [h, if_neg (by decide), raise_at, moveSpoke_other _ _ _ _ (by decide), moveSpoke_frame]

theorem settleStart_spokes (s : State) (i : SpokeId) (n : Nat) : (s.settleStart i n).spokes =
    update s.spokes i fun r => if r.state = .live then { r with settle := max r.settle n } else r := rfl

theorem settleStart_links (s : State) (i : SpokeId) (n : Nat) : (s.settleStart i n).links = s.links := rfl

theorem classCheck_frame (s : State) (i : SpokeId) :
    s.classCheck i = { s with
      spokes := (s.classCheck i).spokes
      engine := (s.classCheck i).engine, channels := (s.classCheck i).channels
      capture := (s.classCheck i).capture, due := (s.classCheck i).due } := by
  unfold State.classCheck
  split
  · split
    · rfl
    · split
      · rfl
      · exact isolate_frame s i _
  · rfl

theorem classCheck_links (s : State) (i : SpokeId) : (s.classCheck i).links = s.links := by rw [classCheck_frame]

/-- The class check passes where the followed plan expects no class, or the known one. -/
theorem classCheck_passes (s : State) (i : SpokeId)
    (h : s.expectedClass i = none ∨ s.expectedClass i = s.spokes[i].knownClass) : s.classCheck i = s := by
  unfold State.classCheck
  split
  · split
    · rfl
    · next c hc =>
      split
      · rfl
      · next hn =>
        rcases h with h | h
        · rw [h] at hc; cases hc
        · exact absurd (h.symm.trans hc) hn
  · rfl

/-- The class check isolates a LIVE spoke of another class. -/
theorem classCheck_fails (s : State) (i : SpokeId) (c : NodeClass) (hl : s.spokes[i].state = .live)
    (h : s.expectedClass i = some c) (hk : s.spokes[i].knownClass ≠ some c) :
    s.classCheck i = s.isolate i .classMismatch := by
  unfold State.classCheck
  simp only [hl, if_true, h, hk, if_false]

theorem enterLive_frame (s : State) (i : SpokeId) :
    s.enterLive i = { s with
      spokes := (s.enterLive i).spokes
      engine := (s.enterLive i).engine, channels := (s.enterLive i).channels
      capture := (s.enterLive i).capture, due := (s.enterLive i).due } := by
  unfold State.enterLive
  conv => lhs; rw [classCheck_frame]
  rfl

theorem enterLive_links (s : State) (i : SpokeId) : (s.enterLive i).links = s.links := by rw [enterLive_frame]

/-- The expected class depends on the engine and the slots alone. -/
theorem expectedClass_of {s t : State} (i : SpokeId) (he : t.engine = s.engine) (hs : t.slots = s.slots) :
    t.expectedClass i = s.expectedClass i := by
  unfold State.expectedClass State.followedEntry
  rw [he, hs]

/-- The record of a spoke that enters LIVE, before its class check. -/
theorem enterLive_eq (s : State) (i : SpokeId) : s.enterLive i =
    (s.mapSpoke i fun r => { r with state := .live, hold := .none, settle := s.restoreSettle }).classCheck i := by
  unfold State.enterLive State.settleStart State.mapSpoke
  simp [update]

/-- Entry to LIVE where the followed plan expects no class, or the known one. -/
theorem enterLive_passes (s : State) (i : SpokeId)
    (h : s.expectedClass i = none ∨ s.expectedClass i = s.spokes[i].knownClass) :
    s.enterLive i = s.mapSpoke i fun r => { r with state := .live, hold := .none, settle := s.restoreSettle } := by
  rw [enterLive_eq, classCheck_passes]
  rw [mapSpoke_at, if_pos rfl, expectedClass_of i rfl rfl]
  exact h

/-- Entry to LIVE where the followed plan expects another class: ISOLATED with CLASS_MISMATCH. -/
theorem enterLive_fails (s : State) (i : SpokeId) (c : NodeClass) (h : s.expectedClass i = some c)
    (hk : s.spokes[i].knownClass ≠ some c) :
    s.enterLive i =
      (s.mapSpoke i fun r => { r with state := .live, hold := .none, settle := s.restoreSettle }).isolate i
        .classMismatch := by
  rw [enterLive_eq]
  apply classCheck_fails _ _ c
  · rw [mapSpoke_at, if_pos rfl]
  · rw [← h]; exact expectedClass_of i rfl rfl
  · rw [mapSpoke_at, if_pos rfl]; exact hk

/-- The records after that. -/
theorem enterLive_fails_spokes (s : State) (i : SpokeId) (c : NodeClass) (h : s.expectedClass i = some c)
    (hk : s.spokes[i].knownClass ≠ some c) :
    (s.enterLive i).spokes =
      update s.spokes i fun r => { r with state := .isolated, hold := .isolate .classMismatch, settle := 0 } := by
  rw [enterLive_fails s i c h hk, isolate_spokes, mapSpoke_at, if_pos rfl, if_neg (by simp [Hold.isolates])]
  apply table_ext
  intro j
  rw [update_get, mapSpoke_at, mapSpoke_at, if_pos rfl, update_get]
  by_cases e : j = i
  · subst e; rw [if_pos rfl, if_pos rfl]; rfl
  · rw [if_neg e, if_neg e, if_neg e]

/-- Entry to LIVE where the followed plan expects another class raises ISOLATION. -/
theorem enterLive_raises (s : State) (i : SpokeId) (c : NodeClass) (h : s.expectedClass i = some c)
    (hk : s.spokes[i].knownClass ≠ some c) : (s.enterLive i).channels[chIsolation] =
      (s.raise chIsolation (some i.val) (.isolation .classMismatch)).channels[chIsolation] := by
  rw [enterLive_fails s i c h hk, isolate_raises _ _ _ (by rw [mapSpoke_at, if_pos rfl]; rfl), raise_at]
  rfl

theorem enterLive_other (s : State) (i : SpokeId) (c : ChannelId) (n : c ≠ chCutoverEnd) (m : c ≠ chIsolation) :
    (s.enterLive i).channels[c] = s.channels[c] := by
  rw [enterLive_eq]
  unfold State.classCheck
  split
  · split
    · rfl
    · split
      · rfl
      · rw [isolate_other _ _ _ _ n m]; rfl
  · rfl

/-! ## The Fault Qualifier -/

theorem qualify_spokes_links (s : State) (i : SpokeId) (k : FaultKind) (d : Detail) :
    (s.qualify i k d).links = s.links ∧
      (s.qualify i k d).spokes =
        if (s.settingsOf k).isolate then (s.isolate i (.fault k)).spokes else s.spokes := by
  unfold State.qualify
  dsimp only
  split
  · refine ⟨by rw [isolate_links]; rfl, ?_⟩
    rw [isolate_spokes, isolate_spokes]
    rfl
  · exact ⟨rfl, rfl⟩

theorem darkenKind_frame (s : State) (i : SpokeId) (k : FaultKind) :
    s.darkenKind i k = { s with
      quals := update s.quals i fun row => row.set (kindIndex k) .reset, channels := (s.darkenKind i k).channels } := by
  unfold State.darkenKind
  dsimp only
  split <;> rfl

theorem darkenQuals_frame (s : State) (i : SpokeId) :
    s.darkenQuals i = { s with
      quals := (s.darkenQuals i).quals, channels := (s.darkenQuals i).channels
      due := { s.due with eval := s.due.eval.set i false } } := by
  have h (l : List FaultKind) (t : State) : ∃ q c, l.foldl (State.darkenKind i) t = { t with quals := q, channels := c } := by
    induction l generalizing t with
    | nil => exact ⟨_, _, rfl⟩
    | cons k l ih =>
      obtain ⟨q, c, e⟩ := ih (t.darkenKind i k)
      rw [List.foldl_cons, e, darkenKind_frame]
      exact ⟨_, _, rfl⟩
  obtain ⟨q, c, e⟩ := h allKinds s
  unfold State.darkenQuals
  rw [e]

theorem darkenKinds_other (i : SpokeId) (c : ChannelId) (n : c ≠ chDuration) (l : List FaultKind) (t : State) :
    (l.foldl (State.darkenKind i) t).channels[c] = t.channels[c] := by
  induction l generalizing t with
  | nil => rfl
  | cons k l ih =>
    rw [List.foldl_cons, ih]
    unfold State.darkenKind
    dsimp only
    split
    · exact raise_other _ _ _ _ _ n
    · rfl

theorem darkenQuals_other (s : State) (i : SpokeId) (c : ChannelId) (n : c ≠ chDuration) :
    (s.darkenQuals i).channels[c] = s.channels[c] := by
  have h := darkenKinds_other i c n allKinds s
  unfold State.darkenQuals
  generalize List.foldl (State.darkenKind i) s allKinds = u at h ⊢
  exact h

/-- The qualifier records after entry to DARK (R124). -/
theorem darkenQuals_quals (s : State) (i : SpokeId) : (s.darkenQuals i).quals =
    update s.quals i fun _ => Vector.replicate 5 .reset := by
  have h (t : State) (k : FaultKind) :
      (t.darkenKind i k).quals = update t.quals i fun row => row.set (kindIndex k) .reset := by rw [darkenKind_frame]
  unfold State.darkenQuals
  dsimp only
  simp only [allKinds, List.foldl_cons, List.foldl_nil, h]
  apply table_ext
  intro j
  by_cases e : j = i
  · subst e
    simp only [update_same]
    apply table_ext
    intro k
    simp only [set_get, kindIndex]
    rw [show (Vector.replicate 5 QualRec.reset)[k] = .reset by simp]
    match k with
    | 0 | 1 | 2 | 3 | 4 => rfl
  · simp only [update_other _ _ e]

/-- What entry to DARK leaves; it raises nothing but CUTOVER_END and DURATION. -/
theorem enterDark_frame (s : State) (i : SpokeId) : ∃ (e : Engine) (v : Vector Channel 16) (k : Capture) (d : Due),
    (s.enterDark i = { s with
      spokes := update s.spokes i fun r => .dark r.hold
      links := update s.links i fun l => { l with requests := [], sending := none }
      quals := (update s.quals i fun _ => Vector.replicate 5 .reset)
      engine := e, channels := v, capture := k, due := d }) ∧
    ∀ ch : ChannelId, ch ≠ chDuration → ch ≠ chCutoverEnd → v[ch] = s.channels[ch] := by
  have hq := darkenQuals_quals s i
  have ho := darkenQuals_other s i
  have hf := darkenQuals_frame s i
  unfold State.enterDark
  generalize s.darkenQuals i = u at hq ho hf
  have hm := moveSpoke_other u i fun r => .dark r.hold
  rw [moveSpoke_frame]
  generalize (State.moveSpoke i _ u).engine = e
  generalize (State.moveSpoke i _ u).channels = c at hm
  generalize (State.moveSpoke i _ u).capture = k
  generalize (State.moveSpoke i _ u).due = d
  refine ⟨e, c, k, { d with
    train := d.train.set i false, poll := d.poll.set i false, waiting := d.waiting.set i 0 }, ?_,
    fun ch h1 h2 => (hm ch h2).trans (ho ch h1)⟩
  rw [hf, ← hq]
  rfl

/-! ## Relief requests and groups -/

/-- A relief request changes the engine, the restore settle and the boundary in hand alone. -/
theorem relieve_frame (s : State) (g : GroupId) (r : Relief) : ∃ e n d,
    (s.relieve g r).2 = { s with engine := e, restoreSettle := n, due := d } := by
  unfold State.relieve
  split
  · exact ⟨_, _, _, rfl⟩
  · split
    · exact ⟨_, _, _, rfl⟩
    · split <;> exact ⟨_, _, _, rfl⟩

/-- A group's entry to CROWDED changes the groups, the channels and what its relief request changes. -/
theorem crowd_frame (s : State) (g : GroupId) : ∃ r c e n d,
    s.crowd g = { s with groups := r, channels := c, engine := e, restoreSettle := n, due := d } := by
  unfold State.crowd
  dsimp only
  split
  · exact ⟨_, _, _, _, _, rfl⟩
  · next r _ =>
    obtain ⟨e, n, d, h⟩ := relieve_frame (s.mapGroup g fun r => { r with state := .crowded, remaining := 0 }) g r
    rw [h]
    exact ⟨_, _, _, _, _, rfl⟩

/-! ## What a departure from LIVE tells the engine -/

/-- What the engine does when it is told depends on the engine, the channels and the frame number alone. -/
theorem tellEngine_of {s t : State} (i : SpokeId) (he : t.engine = s.engine) (hc : t.channels = s.channels)
    (hf : t.frame = s.frame) :
    (t.tellEngine i).engine = (s.tellEngine i).engine ∧ (t.tellEngine i).channels = (s.tellEngine i).channels := by
  unfold State.tellEngine State.completeStep State.endCutover State.raise
  simp only [he, hc, hf]
  cases s.engine.current with
  | none => exact ⟨he, hc⟩
  | some c =>
    dsimp only
    split
    · cases s.engine.state <;> dsimp only
      · exact ⟨he, hc⟩
      · split
        · exact ⟨rfl, rfl⟩
        · exact ⟨rfl, rfl⟩
      · exact ⟨rfl, rfl⟩
    · exact ⟨he, hc⟩

/-- A departure from LIVE tells the engine. -/
theorem moveSpoke_tells (s : State) (i : SpokeId) (f : SpokeRec → SpokeRec) (h : s.spokes[i].state = .live) :
    (s.moveSpoke i f).engine = (s.tellEngine i).engine ∧ (s.moveSpoke i f).channels = (s.tellEngine i).channels := by
  unfold State.moveSpoke State.departLive
  simp only [h, if_true]
  exact tellEngine_of i rfl rfl rfl

/-- The channel CUTOVER_END depends on its own record before, and no other. -/
theorem tellEngine_end {s t : State} (i : SpokeId) (he : t.engine = s.engine)
    (hc : t.channels[chCutoverEnd] = s.channels[chCutoverEnd]) (hf : t.frame = s.frame) :
    (t.tellEngine i).engine = (s.tellEngine i).engine ∧
      (t.tellEngine i).channels[chCutoverEnd] = (s.tellEngine i).channels[chCutoverEnd] := by
  have hend (a b : State) (h : Bool) (x : a.engine = b.engine) (y : a.frame = b.frame)
      (z : a.channels[chCutoverEnd] = b.channels[chCutoverEnd]) :
      (a.endCutover h).engine = (b.endCutover h).engine ∧
        (a.endCutover h).channels[chCutoverEnd] = (b.endCutover h).channels[chCutoverEnd] := by
    unfold State.endCutover
    dsimp only
    rw [raise_at, raise_at, x, y, z]
    exact ⟨rfl, rfl⟩
  rcases hcur : s.engine.current with _ | c
  · rw [tellEngine_none i hcur, tellEngine_none i (he ▸ hcur)]; exact ⟨he, hc⟩
  · have hcur' : t.engine.current = some c := he ▸ hcur
    unfold State.tellEngine
    rw [hcur, hcur']
    dsimp only
    split
    · unfold State.completeStep
      dsimp only
      rw [he]
      split
      · exact ⟨he, hc⟩
      · split
        · exact hend _ _ _ rfl hf hc
        · exact ⟨rfl, hc⟩
      · exact hend _ _ _ rfl hf hc
    · exact ⟨he, hc⟩

/-- An isolation that takes a spoke out of LIVE tells the engine. -/
theorem isolate_tells (s : State) (i : SpokeId) (r : Reason) (h : s.spokes[i].hold.isolates = false)
    (hl : s.spokes[i].state = .live) : (s.isolate i r).engine = (s.tellEngine i).engine ∧
      (s.isolate i r).channels[chCutoverEnd] = (s.tellEngine i).channels[chCutoverEnd] := by
  unfold State.isolate
  simp only [h, Bool.false_eq_true, if_false]
  have k := moveSpoke_tells s i (fun x => { x with hold := .isolate r, state := stateWhenIsolated r x.state }) hl
  refine ⟨k.1, ?_⟩
  rw [raise_other _ _ _ _ _ (by decide), k.2]

/-- Entry to DARK from LIVE tells the engine. -/
theorem enterDark_tells (s : State) (i : SpokeId) (h : s.spokes[i].state = .live) :
    (s.enterDark i).engine = (s.tellEngine i).engine ∧
      (s.enterDark i).channels[chCutoverEnd] = (s.tellEngine i).channels[chCutoverEnd] := by
  have hf := darkenQuals_frame s i
  have ho := darkenQuals_other s i chCutoverEnd (by decide)
  unfold State.enterDark
  generalize s.darkenQuals i = u at hf ho ⊢
  have hl : u.spokes[i].state = .live := by rw [hf]; exact h
  have e : u.engine = s.engine := by rw [hf]
  have fr : u.frame = s.frame := by rw [hf]
  have k := moveSpoke_tells u i (fun r => .dark r.hold) hl
  have m := tellEngine_end i e ho fr
  generalize u.moveSpoke i (fun r => .dark r.hold) = w at k ⊢
  refine ⟨k.1.trans m.1, ?_⟩
  show w.channels[chCutoverEnd] = _
  rw [k.2]; exact m.2

/-! ## What a departure from LIVE does to a collection (R109), and entry to DARK to DURATION (R124) -/

theorem moveSpoke_capture (s : State) (i : SpokeId) (f : SpokeRec → SpokeRec) (h : s.spokes[i].state = .live) :
    (s.moveSpoke i f).capture = { s.capture with
      collection := s.capture.collection.map fun c => if c.target.spoke = i then { c with live := false } else c } := by
  unfold State.moveSpoke State.departLive
  simp only [h, if_true]
  rw [tellEngine_frame]
  rfl

theorem enterDark_capture (s : State) (i : SpokeId) (h : s.spokes[i].state = .live) :
    (s.enterDark i).capture = { s.capture with
      collection := s.capture.collection.map fun c => if c.target.spoke = i then { c with live := false } else c } := by
  have hf := darkenQuals_frame s i
  unfold State.enterDark
  generalize s.darkenQuals i = u at hf ⊢
  have hl : u.spokes[i].state = .live := by rw [hf]; exact h
  show (u.moveSpoke i _).capture = _
  rw [moveSpoke_capture u i _ hl, hf]

/-- One kind's record at entry to DARK leaves channel 1 with its raise, if it was MEASURING. -/
theorem darkenKinds_duration (i : SpokeId) (s : State) (l : List FaultKind) : ∀ t u : State, l.Nodup →
    (∀ k ∈ l, t.qual i k = s.qual i k) → t.settings = s.settings → t.frame = u.frame →
    t.channels[(1 : ChannelId)] = u.channels[(1 : ChannelId)] →
    (l.foldl (State.darkenKind i) t).channels[(1 : ChannelId)] = (l.foldl (fun (u : State) k =>
      if (s.qual i k).state = .measuring then
        u.raise 1 (some i.val)
          (.duration k ((s.qual i k).measured / 4 ^ (s.settingsOf k).unit.val) (s.settingsOf k).unit true)
      else u) u).channels[(1 : ChannelId)] := by
  induction l with
  | nil => intro t u _ _ _ _ h; exact h
  | cons k l ih =>
    intro t u nd hq hs hf hc
    rw [List.foldl_cons, List.foldl_cons]
    rw [List.nodup_cons] at nd
    have qk := hq k (by simp)
    have sk : t.settingsOf k = s.settingsOf k := by unfold State.settingsOf; rw [hs]
    have fr := darkenKind_frame t i k
    refine ih _ _ nd.2 (fun j hj => ?_) (by rw [fr]; exact hs) ?_ ?_
    · have n : j ≠ k := fun e => nd.1 (e ▸ hj)
      rw [← hq j (by simp [hj]), fr]
      unfold State.qual
      simp only [update_same]
      cases j <;> cases k <;> first | exact absurd rfl n | simp [kindIndex]
    · rw [fr]
      split
      · rw [raise_frame]; exact hf
      · exact hf
    · unfold State.darkenKind
      rw [qk]
      dsimp only
      split
      · show (t.raise 1 _ _).channels[(1 : ChannelId)] = _
        rw [raise_at, raise_at, hc, hf, sk]
        have : ∀ u : Fin 4, unitFrames u = 4 ^ u.val := by decide
        rw [this]
      · exact hc

theorem darkenQuals_duration (s : State) (i : SpokeId) :
    (s.darkenQuals i).channels[(1 : ChannelId)] = durationCutShort s i := by
  unfold State.darkenQuals durationCutShort
  dsimp only
  rw [darkenKinds_duration i s allKinds s s (by decide) (fun _ _ => rfl) rfl rfl rfl]
  simp only [allKinds]

theorem enterDark_duration (s : State) (i : SpokeId) :
    (s.enterDark i).channels[(1 : ChannelId)] = durationCutShort s i := by
  have h := darkenQuals_duration s i
  unfold State.enterDark
  generalize s.darkenQuals i = u at h ⊢
  have m := moveSpoke_other u i (fun r => .dark r.hold) 1 (by decide)
  generalize u.moveSpoke i (fun r => .dark r.hold) = w at m ⊢
  exact m.trans h

/-! ## The report taker's search (R36) -/

theorem nextQueued_none (s : State) : s.nextQueued = none ↔ ∀ i : SpokeId, s.spokes[i].queue = [] := by
  unfold State.nextQueued
  rw [List.find?_eq_none]
  constructor
  · intro h i
    have m : i ∈ searchOrder s.takerPos := by
      unfold searchOrder
      rw [List.mem_map]
      exact ⟨i - (s.takerPos + 1), by simp [allSpokes], by ext; simp; omega⟩
    simpa using h i m
  · intro h i _
    rw [h i]
    decide

end Sys2Proof.Machine
end

