-- ==== Sys2Proof/Laws/Frames.lean ====
section
/-! SUPPORT. The frames of the operations on a spoke and of the events that act on one: which fields may differ after each. -/

namespace Sys2Proof.Machine

/-! ## The frames -/

/-- Only spokes, links, qualifier records, engine, channels, the capture unit and the boundary in hand may differ. -/
def FrameWide (s t : State) : Prop := ∃ v l q e c k d,
  t = { s with spokes := v, links := l, quals := q, engine := e, channels := c, capture := k, due := d }

theorem FrameWide.refl (s) : FrameWide s s := ⟨_, _, _, _, _, _, _, rfl⟩

theorem FrameWide.trans {s t u} (h : FrameWide s t) (k : FrameWide t u) : FrameWide s u := by
  obtain ⟨_, _, _, _, _, _, _, rfl⟩ := h
  obtain ⟨_, _, _, _, _, _, _, rfl⟩ := k
  exact ⟨_, _, _, _, _, _, _, rfl⟩

theorem FrameWide.self {s t} (h : FrameWide s t) :
    t = { s with spokes := t.spokes, links := t.links, quals := t.quals, engine := t.engine, channels := t.channels,
                 capture := t.capture, due := t.due } := by
  obtain ⟨_, _, _, _, _, _, _, rfl⟩ := h
  rfl

/-- Only spokes, engine, channels, the capture unit and the boundary in hand may differ. -/
def FrameSpoke (s t : State) : Prop := ∃ v e c k d,
  t = { s with spokes := v, engine := e, channels := c, capture := k, due := d }

theorem FrameSpoke.refl (s) : FrameSpoke s s := ⟨_, _, _, _, _, rfl⟩

theorem FrameSpoke.trans {s t u} (h : FrameSpoke s t) (k : FrameSpoke t u) : FrameSpoke s u := by
  obtain ⟨_, _, _, _, _, rfl⟩ := h
  obtain ⟨_, _, _, _, _, rfl⟩ := k
  exact ⟨_, _, _, _, _, rfl⟩

theorem FrameSpoke.wide {s t} (h : FrameSpoke s t) : FrameWide s t := by
  obtain ⟨_, _, _, _, _, rfl⟩ := h
  exact ⟨_, _, _, _, _, _, _, rfl⟩

theorem FrameSpoke.self {s t} (h : FrameSpoke s t) :
    t = { s with spokes := t.spokes, engine := t.engine, channels := t.channels, capture := t.capture,
                 due := t.due } := by
  obtain ⟨_, _, _, _, _, rfl⟩ := h
  rfl

/-- Only spokes, links, engine, channels, the capture unit and the boundary in hand may differ. -/
def FrameLink (s t : State) : Prop := ∃ v l e c k d,
  t = { s with spokes := v, links := l, engine := e, channels := c, capture := k, due := d }

theorem FrameLink.self {s t} (h : FrameLink s t) :
    t = { s with spokes := t.spokes, links := t.links, engine := t.engine, channels := t.channels,
                 capture := t.capture, due := t.due } := by
  obtain ⟨_, _, _, _, _, _, rfl⟩ := h
  rfl

theorem FrameLink.then {s t u} (h : FrameLink s t) (k : FrameSpoke t u) : FrameLink s u := by
  obtain ⟨_, _, _, _, _, _, rfl⟩ := h
  obtain ⟨_, _, _, _, _, rfl⟩ := k
  exact ⟨_, _, _, _, _, _, rfl⟩
/-! ## The operations -/

theorem isolate_spoke (s i r) : FrameSpoke s (State.isolate i r s) := ⟨_, _, _, _, _, isolate_frame s i r⟩

theorem linkLoss_wide (s : State) (i) (hd : s.spokes[i].state ≠ .dark) : FrameWide s (s.linkLoss i) := by
  obtain ⟨e, v, k, d, h, _⟩ := enterDark_frame s i
  have : s.linkLoss i = ((s.enterDark i).mapLink i fun _ => .dropped).raise chLinkLost (some i.val) .none := by
    unfold State.linkLoss
    rw [if_neg hd]
  rw [this, h]
  exact ⟨_, _, _, _, _, _, _, rfl⟩

theorem retrain_wide (t : State) (i) : FrameWide t ((t.enterDark i).mapLink i fun _ => .dropped) := by
  obtain ⟨e, v, k, d, h, _⟩ := enterDark_frame t i
  rw [h]
  exact ⟨_, _, _, _, _, _, _, rfl⟩

theorem raise_spoke (s : State) (ch src d) : FrameSpoke s (s.raise ch src d) := ⟨_, _, _, _, _, rfl⟩

theorem mapSpoke_spoke (s : State) (i f) : FrameSpoke s (s.mapSpoke i f) := ⟨_, _, _, _, _, rfl⟩

theorem qualify_spoke (s : State) (i k d) : FrameSpoke s (s.qualify i k d) := by
  unfold State.qualify
  dsimp only
  split
  · exact (raise_spoke _ _ _ _).trans (isolate_spoke _ _ _)
  · exact raise_spoke _ _ _ _

theorem setQual_wide (s : State) (i k q) : FrameWide s (s.setQual i k q) := ⟨_, _, _, _, _, _, _, rfl⟩

theorem frameErrors_wide (s : State) (i) : FrameWide s (s.frameErrors i) := by
  unfold State.frameErrors
  dsimp only
  split
  · exact .refl _
  split
  · exact (qualify_spoke _ _ _ _).wide
  · split
    · split
      · exact (setQual_wide _ _ _ _).trans (qualify_spoke _ _ _ _).wide
      · exact setQual_wide _ _ _ _
    · split
      · exact (setQual_wide _ _ _ _).trans (qualify_spoke _ _ _ _).wide
      · exact setQual_wide _ _ _ _
    · exact .refl _
    · exact .refl _
  · exact .refl _
  · exact .refl _

theorem groupDamaged_wide (s : State) (i n) : FrameWide s (s.groupDamaged i n) := by
  unfold State.groupDamaged
  split
  · exact FrameWide.trans ⟨_, _, _, _, _, _, _, rfl⟩ (frameErrors_wide _ _)
  · exact .refl _

theorem classCheck_spoke (s : State) (i) : FrameSpoke s (s.classCheck i) := ⟨_, _, _, _, _, classCheck_frame s i⟩

theorem enterLive_spoke (s : State) (i) : FrameSpoke s (s.enterLive i) := ⟨_, _, _, _, _, enterLive_frame s i⟩

theorem endTraining_link (s : State) (i) : ∃ v l d, s.endTraining i = { s with spokes := v, links := l, due := d } :=
  ⟨_, _, _, rfl⟩

theorem helloInTraining_link (s : State) (i c) : FrameLink s (s.helloInTraining i c) := by
  have e : FrameLink s (s.endTraining i) := ⟨_, _, _, _, _, _, rfl⟩
  unfold State.helloInTraining
  dsimp only
  split
  · exact (e.then (isolate_spoke _ _ _)).then (mapSpoke_spoke _ _ _)
  · split
    · exact (e.then (mapSpoke_spoke _ _ _)).then (mapSpoke_spoke _ _ _)
    · exact (e.then (mapSpoke_spoke _ _ _)).then (mapSpoke_spoke _ _ _)
    · exact ((e.then (mapSpoke_spoke _ _ _)).then (raise_spoke _ _ _ _)).then (enterLive_spoke _ _)

theorem restoreLive_link (t : State) (i) :
    FrameLink t ((t.mapSpoke i fun r => { r with hold := .none }).enterLive i) :=
  FrameLink.then ⟨_, _, _, _, _, _, rfl⟩ (enterLive_spoke _ _)

theorem restoreTraining_link (t : State) (i) :
    FrameLink t ((t.mapSpoke i fun r => { r with hold := .none }).enterTraining i) :=
  ⟨_, _, _, _, _, _, rfl⟩

theorem evaluateCondition_wide (s : State) (i k) : FrameWide s (s.evaluateCondition i k) := by
  unfold State.evaluateCondition
  dsimp only
  have a : ∀ u : State, FrameWide s u →
      FrameWide s (if (s.evaluation i k).qualifies = true then u.qualify i k (s.conditionDetail i k) else u) := by
    intro u h
    split
    · exact h.trans (qualify_spoke _ _ _ _).wide
    · exact h
  apply a
  split
  · exact (setQual_wide _ _ _ _).trans (raise_spoke _ _ _ _).wide
  · exact setQual_wide _ _ _ _

theorem evaluate_wide (s : State) (i k) : FrameWide s (s.evaluate i k) := by
  unfold State.evaluate
  split
  · exact .refl _
  · cases k
    · unfold State.frameErrorsBoundary
      dsimp only
      split <;> first | exact setQual_wide _ _ _ _ | exact .refl _
    all_goals exact evaluateCondition_wide _ _ _

theorem evaluateTurn_wide (s : State) (i) : FrameWide s (s.evaluateTurn i) := by
  have h (l : List FaultKind) (t : State) : FrameWide t (l.foldl (fun t k => t.evaluate i k) t) := by
    induction l generalizing t with
    | nil => exact .refl _
    | cons k l ih => exact (evaluate_wide t i k).trans (ih _)
  unfold State.evaluateTurn
  split
  · exact FrameWide.trans (t := { s with due := { s.due with eval := s.due.eval.set i false } })
      ⟨_, _, _, _, _, _, _, rfl⟩ (h _ _)
  · exact .refl _

theorem persistTurn_wide (s : State) (i k) : FrameWide s (s.persistTurn i k) := by
  unfold State.persistTurn
  split
  · exact evaluateTurn_wide _ _
  · exact .refl _

theorem windowTurn_wide (s : State) (i k) : FrameWide s (s.windowTurn i k) := by
  unfold State.windowTurn
  split
  · exact evaluateTurn_wide _ _
  · exact .refl _

theorem tellEngine_spoke (s : State) (i) : FrameSpoke s (s.tellEngine i) := ⟨_, _, _, _, _, tellEngine_frame s i⟩

theorem moveAcross_spoke (s : State) (i up l p) : FrameSpoke s (s.moveAcross i up l p) := by
  unfold State.moveAcross
  dsimp only
  have e : FrameSpoke s (s.mapEngine fun e => { e with line := l, current := some ⟨i, up, false, 0⟩ }) :=
    ⟨_, _, _, _, _, rfl⟩
  split
  · have := (e.trans (mapSpoke_spoke _ _ _ : FrameSpoke _ (State.settleStart i p.settle _))).trans
      (classCheck_spoke _ i)
    split
    · exact this.trans (tellEngine_spoke _ _)
    · exact this
  · exact e.trans (tellEngine_spoke _ _)

theorem stepTurn_spoke (s : State) : FrameSpoke s s.stepTurn := by
  unfold State.stepTurn
  split
  · dsimp only
    split
    · refine FrameSpoke.trans (t := { s with due := { s.due with step := false } }) ⟨_, _, _, _, _, rfl⟩ ?_
      unfold State.takeStep
      split
      · exact .refl _
      · split
        · exact moveAcross_spoke _ _ _ _ _
        · split
          · exact moveAcross_spoke _ _ _ _ _
          · exact .refl _
    · exact ⟨_, _, _, _, _, rfl⟩
  · exact .refl _

theorem crowdTurn_frame (s : State) (g) (h : s.due.groups[g] = true) (k : s.groups[g].state = .rising) :
    ∃ r c e n d, s.crowdTurn g =
      { s with groups := r, channels := c, engine := e, restoreSettle := n, due := d } := by
  obtain ⟨r, c, e, n, d, hh⟩ := crowd_frame (s.clearGroupTurn g) g
  have : s.crowdTurn g = (s.clearGroupTurn g).crowd g := by
    unfold State.crowdTurn
    rw [h, k]
    rfl
  rw [this, hh]
  exact ⟨_, _, _, _, _, rfl⟩

theorem trainingLimit_frame (s : State) (i) (h : s.spokes[i].state = .training) : ∃ v l c d,
    s.trainingLimit i = { s with spokes := v, links := l, channels := c, due := d } := by
  unfold State.trainingLimit
  have e : (s.endTraining i).spokes[i].state = .training := by
    unfold State.endTraining State.mapLink State.mapSpoke
    simpa using h
  obtain ⟨v, l, d, hf⟩ := endTraining_link s i
  generalize s.endTraining i = u at e hf
  have : ∃ v c, u.isolate i .noHello = { u with spokes := v, channels := c } := by
    unfold State.isolate
    split
    · exact ⟨_, _, rfl⟩
    · rw [moveSpoke_not_live _ _ _ (by rw [e]; decide)]
      exact ⟨_, _, rfl⟩
  obtain ⟨v, c, g⟩ := this
  rw [g, hf]
  exact ⟨_, _, _, _, rfl⟩

theorem settleFollowers_spoke (k b) (s : State) :
    FrameSpoke s (eachSpoke (State.settleFollower b) (s.mapEngine (·.bind b k))) := by
  have h : ∀ (l : List SpokeId) (t : State), FrameSpoke t (l.foldl (fun t i => State.settleFollower b i t) t) := by
    intro l
    induction l with
    | nil => exact fun t => .refl _
    | cons i l ih =>
      intro t
      refine FrameSpoke.trans ?_ (ih _)
      show FrameSpoke t (State.settleFollower b i t)
      unfold State.settleFollower
      split
      · exact (mapSpoke_spoke _ _ _ : FrameSpoke _ (State.settleStart i _ _)).trans (classCheck_spoke _ _)
      · exact .refl _
  exact FrameSpoke.trans ⟨_, _, _, _, _, rfl⟩ (h _ _)

theorem mgmtPortLoss_frame (s : State) (h : s.ports[s.mgmtPort] = true) (r : s.lane.resetArmed = false) :
    ∃ f m c l d, s.portLoss s.mgmtPort =
      { s with ports := s.ports.set s.mgmtPort false, reference := f, markerSkipped := m, channels := c, lane := l,
               due := d } := by
  have hs : ∀ p, ∃ c, s.raiseSilent p = { s with channels := c } := by
    intro p
    have : ∀ (l : List FeedId) (t : State), ∃ c, l.foldl (fun t f =>
        if portOf f = p ∧ s.feeds[f].state = .active then t.raise chFeedTrouble (some f.val) .silentPort else t) t =
          { t with channels := c } := by
      intro l
      induction l with
      | nil => exact fun t => ⟨_, rfl⟩
      | cons f l ih =>
        intro t
        rw [List.foldl_cons]
        split
        · obtain ⟨c, e⟩ := ih (t.raise chFeedTrouble (some f.val) .silentPort)
          rw [e]
          exact ⟨_, rfl⟩
        · exact ih _
    exact this _ _
  obtain ⟨c, e⟩ := hs s.mgmtPort
  have : s.portLoss s.mgmtPort =
      ({ s.raiseSilent s.mgmtPort with ports := s.ports.set s.mgmtPort false } : State).mgmtLoss := by
    unfold State.portLoss
    simp [h]
  rw [e] at this
  unfold State.mgmtLoss at this
  simp only [r] at this
  rw [this]
  exact ⟨_, _, _, _, _, rfl⟩

end Sys2Proof.Machine
end

