-- ==== Sys2Proof/Laws/Banks.lean ====
section
/-! SUPPORT. What BANK BIND does to the followers of the bank (R79), once for one of them and once for all. -/

namespace Sys2Proof.Machine

/-- An IDLE engine is told nothing. -/
theorem tellEngine_idle (s : State) (i : SpokeId) (h : s.engine.state = .idle) : s.tellEngine i = s := by
  unfold State.tellEngine State.completeStep
  rw [h]
  split
  · split <;> rfl
  · rfl

/-- Under an IDLE engine an isolation keeps the engine and every channel but ISOLATION. -/
theorem isolate_idle (s : State) (i : SpokeId) (r : Reason) (hi : s.engine.state = .idle) :
    (s.isolate i r).engine = s.engine ∧ ∀ c : ChannelId, c ≠ chIsolation → (s.isolate i r).channels[c] = s.channels[c] := by
  have key (f : SpokeRec → SpokeRec) : (s.moveSpoke i f).engine = s.engine ∧ (s.moveSpoke i f).channels = s.channels := by
    by_cases l : s.spokes[i].state = .live
    · have k := moveSpoke_tells s i f l
      rwa [tellEngine_idle s i hi] at k
    · rw [moveSpoke_not_live s i f l]; exact ⟨rfl, rfl⟩
  unfold State.isolate
  split
  · exact ⟨rfl, fun _ _ => rfl⟩
  · have k := key fun x => { x with hold := .isolate r, state := stateWhenIsolated r x.state }
    refine ⟨k.1, fun c n => ?_⟩
    rw [raise_other _ _ _ _ _ n, k.2]

/-- A raise keeps every entry of another source. -/
theorem gather_keeps (fr : Half) (src : Option Nat) (d : Detail) (l : List SourceEntry) (e : SourceEntry) (h : e ∈ l)
    (n : e.source ≠ src) : e ∈ gather fr src d l := by
  induction l with
  | nil => cases h
  | cons x xs ih =>
    unfold gather
    split
    · next k =>
      rcases List.mem_cons.mp h with rfl | h
      · exact absurd k n
      · exact List.mem_cons_of_mem _ h
    · rcases List.mem_cons.mp h with rfl | h
      · exact List.mem_cons_self
      · exact List.mem_cons_of_mem _ (ih h)

/-- The channel ISOLATION after an isolation request. -/
theorem isolate_channel (s : State) (i : SpokeId) (r : Reason) : (s.isolate i r).channels[chIsolation] =
    if s.spokes[i].hold.isolates then s.channels[chIsolation]
    else s.channels[chIsolation].raise s.frame (some i.val) (.isolation r) := by
  unfold State.isolate
  split
  · rfl
  · rw [raise_at, moveSpoke_other _ _ _ _ (by decide)]
    congr 1
    rw [moveSpoke_frame]

/-- What the followers of a bank have become: of the spokes in a list, the LIVE followers settle, or are isolated where
another class is expected; nothing else changes but the channel ISOLATION, which keeps the entries of other sources. -/
structure Followed (b : Bool) (k : SlotId) (l : List SpokeId) (s t : State) : Prop where
  frame : FrameSpoke s t
  engine : t.engine = s.engine
  channels : ∀ c : ChannelId, c ≠ chIsolation → t.channels[c] = s.channels[c]
  enabled : t.channels[chIsolation].enabled = s.channels[chIsolation].enabled
  entries : ∀ e ∈ s.channels[chIsolation].list, (∀ i ∈ l, e.source ≠ some i.val) → e ∈ t.channels[chIsolation].list
  others : ∀ j : SpokeId, j ∉ l → t.spokes[j] = s.spokes[j]
  not_following : ∀ i ∈ l, ¬(s.spokes[i].state = .live ∧ s.engine.followsB i = b) → t.spokes[i] = s.spokes[i]
  settles : ∀ i ∈ l, s.spokes[i].state = .live → s.engine.followsB i = b →
    (s.slots[k].plan[i].expect = none ∨ s.slots[k].plan[i].expect = s.spokes[i].knownClass) →
    t.spokes[i] = { s.spokes[i] with settle := max s.spokes[i].settle s.restoreSettle }
  mismatches : ∀ i ∈ l, s.spokes[i].state = .live → s.engine.followsB i = b → ∀ c, s.slots[k].plan[i].expect = some c →
    s.spokes[i].knownClass ≠ some c → s.spokes[i].hold.isolates = false →
    t.spokes[i].state = .isolated ∧ t.spokes[i].hold = .isolate .classMismatch ∧ t.spokes[i].settle = 0 ∧
      (s.channels[chIsolation].enabled = true → ∃ e ∈ t.channels[chIsolation].list,
        e.source = some i.val ∧ e.detail = .isolation .classMismatch)

/-- One spoke. -/
theorem settleFollower_does (b : Bool) (i : SpokeId) (k : SlotId) (s : State) (hi : s.engine.state = .idle)
    (hb : s.engine.binding b = some k) : Followed b k [i] s (State.settleFollower b i s) := by
  unfold State.settleFollower
  by_cases g : s.spokes[i].state = .live ∧ s.engine.followsB i = b
  · rw [if_pos g]
    obtain ⟨u, hu⟩ : ∃ u, u = s.settleStart i s.restoreSettle := ⟨_, rfl⟩
    rw [← hu]
    have ui : u.spokes[i] = { s.spokes[i] with settle := max s.spokes[i].settle s.restoreSettle } := by
      rw [hu]; unfold State.settleStart; rw [mapSpoke_at, if_pos rfl, if_pos g.1]
    have uo (j : SpokeId) (n : j ≠ i) : u.spokes[j] = s.spokes[j] := by
      rw [hu]; unfold State.settleStart; rw [mapSpoke_at, if_neg n]
    have uG : FrameSpoke s u := by rw [hu]; exact mapSpoke_spoke _ _ _
    have ue : u.engine = s.engine := by rw [hu]; rfl
    have uc : u.channels = s.channels := by rw [hu]; rfl
    have ux : u.expectedClass i = s.slots[k].plan[i].expect := by
      rw [hu]
      unfold State.expectedClass State.followedEntry Engine.followedSlot
      show Option.bind (Option.map _ (if s.engine.followsB i = true then s.engine.bankB else s.engine.bankA)) _ = _
      rw [g.2]
      have : (if b = true then s.engine.bankB else s.engine.bankA) = some k := by
        rw [← hb]; unfold Engine.binding; cases b <;> rfl
      rw [this]
      rfl
    have ul : u.spokes[i].state = .live := by rw [ui]; exact g.1
    have uk : u.spokes[i].knownClass = s.spokes[i].knownClass := by rw [ui]
    have uh : u.spokes[i].hold = s.spokes[i].hold := by rw [ui]
    have fail : ∀ c, s.slots[k].plan[i].expect = some c → s.spokes[i].knownClass ≠ some c →
        u.classCheck i = u.isolate i .classMismatch := by
      intro c h1 h2
      unfold State.classCheck; rw [if_pos ul, ux, h1]; dsimp only; rw [uk, if_neg h2]
    have pass : (s.slots[k].plan[i].expect = none ∨ s.slots[k].plan[i].expect = s.spokes[i].knownClass) →
        u.classCheck i = u := by
      intro h
      unfold State.classCheck; rw [if_pos ul, ux]
      rcases h with h | h
      · rw [h]
      · rw [h]
        split
        · rfl
        · next c e => rw [uk, if_pos e]
    have either : u.classCheck i = u ∨ u.classCheck i = u.isolate i .classMismatch := by
      cases hx : s.slots[k].plan[i].expect with
      | none => exact .inl (pass (.inl hx))
      | some c =>
        by_cases e : s.spokes[i].knownClass = some c
        · exact .inl (pass (.inr (hx.trans e.symm)))
        · exact .inr (fail c hx e)
    have idle := isolate_idle u i .classMismatch (by rw [ue]; exact hi)
    have chan := isolate_channel u i .classMismatch
    refine ⟨uG.trans (classCheck_spoke _ _), ?_, fun c n => ?_, ?_, fun e he hs => ?_, fun j n => ?_, fun j hj n => ?_,
      fun j hj _ _ h => ?_, fun j hj _ _ c h1 h2 h3 => ?_⟩
    · rcases either with e | e <;> rw [e]
      · exact ue
      · rw [idle.1, ue]
    · rcases either with e | e <;> rw [e]
      · rw [uc]
      · rw [idle.2 c n, uc]
    · rcases either with e | e <;> rw [e]
      · rw [uc]
      · rw [chan, uc]
        split
        · rfl
        · unfold Channel.raise; split <;> rfl
    · have hs := hs i (by simp)
      rcases either with h | h <;> rw [h]
      · rw [uc]; exact he
      · rw [chan, uc]
        split
        · exact he
        · unfold Channel.raise
          split
          · exact gather_keeps _ _ _ _ _ he hs
          · exact he
    · have n : j ≠ i := by simpa using n
      rcases either with h | h <;> rw [h]
      · exact uo j n
      · rw [isolate_spokes]
        split
        · exact uo j n
        · rw [update_other _ _ n]; exact uo j n
    · obtain rfl : j = i := by simpa using hj
      exact absurd g n
    · obtain rfl : j = i := by simpa using hj
      rw [pass h]; exact ui
    · obtain rfl : j = i := by simpa using hj
      rw [fail c h1 h2, isolate_spokes, if_neg (by rw [uh, h3]; decide), update_same]
      refine ⟨by rw [ul]; rfl, rfl, rfl, fun en => ?_⟩
      rw [chan, if_neg (by rw [uh, h3]; decide), ← raise_at]
      exact raise_mem _ _ _ _ (by rw [uc]; exact en)
  · rw [if_neg g]
    refine ⟨.refl _, rfl, fun _ _ => rfl, rfl, fun _ h _ => h, fun _ _ => rfl, fun _ _ _ => rfl, fun j hj h1 h2 => ?_,
      fun j hj h1 h2 => ?_⟩
    all_goals
      obtain rfl : j = i := by simpa using hj
      exact absurd ⟨h1, h2⟩ g

/-- The spokes of a list, one after the other. -/
theorem settleFollowers_do (b : Bool) (k : SlotId) (l : List SpokeId) (nd : l.Nodup) (s : State)
    (hi : s.engine.state = .idle) (hb : s.engine.binding b = some k) :
    Followed b k l s (l.foldl (fun t i => State.settleFollower b i t) s) := by
  induction l generalizing s with
  | nil =>
    exact ⟨.refl _, rfl, fun _ _ => rfl, rfl, fun _ h _ => h, fun _ _ => rfl, fun _ h => (nomatch h),
      fun _ h => (nomatch h), fun _ h => (nomatch h)⟩
  | cons a l ih =>
    rw [List.nodup_cons] at nd
    rw [List.foldl_cons]
    have f := settleFollower_does b a k s hi hb
    generalize State.settleFollower b a s = u at f ⊢
    have r := ih nd.2 u (by rw [f.engine]; exact hi) (by rw [f.engine]; exact hb)
    generalize List.foldl (fun t i => State.settleFollower b i t) u l = t at r ⊢
    have us : u.slots = s.slots ∧ u.restoreSettle = s.restoreSettle := by
      obtain ⟨_, _, _, _, _, e⟩ := f.frame; rw [e]; exact ⟨rfl, rfl⟩
    have ne {i : SpokeId} (h : i ∈ l) : i ∉ [a] := by
      simp only [List.mem_singleton]; rintro rfl; exact nd.1 h
    have same {i : SpokeId} (h : i ∈ l) : u.spokes[i] = s.spokes[i] := f.others i (ne h)
    refine ⟨f.frame.trans r.frame, r.engine.trans f.engine, fun c n => (r.channels c n).trans (f.channels c n),
      r.enabled.trans f.enabled, fun e he hs => ?_, fun j hj => ?_, fun i hm n => ?_, fun i hm h1 h2 h3 => ?_,
      fun i hm h1 h2 c c1 c2 c3 => ?_⟩
    · exact r.entries e (f.entries e he fun i hi => hs i (by simp_all)) fun i hi => hs i (by simp [hi])
    · simp only [List.mem_cons, not_or] at hj
      rw [r.others j hj.2, f.others j (by simpa using hj.1)]
    · rcases List.mem_cons.mp hm with rfl | hm
      · rw [r.others i nd.1, f.not_following i (by simp) n]
      · rw [r.not_following i hm (by rw [same hm, f.engine]; exact n), same hm]
    · rcases List.mem_cons.mp hm with rfl | hm
      · rw [r.others i nd.1, f.settles i (by simp) h1 h2 h3]
      · have := r.settles i hm (by rw [same hm]; exact h1) (by rw [f.engine]; exact h2)
        rw [same hm, us.1, us.2] at this
        exact this h3
    · rcases List.mem_cons.mp hm with rfl | hm
      · obtain ⟨q1, q2, q3, q4⟩ := f.mismatches i (by simp) h1 h2 c c1 c2 c3
        rw [r.others i nd.1]
        refine ⟨q1, q2, q3, fun en => ?_⟩
        obtain ⟨e, he, k1, k2⟩ := q4 en
        refine ⟨e, r.entries e he fun j hj => ?_, k1, k2⟩
        rw [k1]
        intro x
        simp only [Option.some.injEq] at x
        exact nd.1 ((Fin.ext x : i = j) ▸ hj)
      · have := r.mismatches i hm (by rw [same hm]; exact h1) (by rw [f.engine]; exact h2)
        rw [same hm, us.1, f.enabled] at this
        exact this c c1 c2 c3

end Sys2Proof.Machine
end

