-- ==== Sys2Proof/Laws/Capture.lean ====
section
/-! SUPPORT. The Capture Unit's event at a frame boundary: what its second and third part can do (R107). -/

namespace Sys2Proof.Machine

theorem barred_iff (s : State) (x : Target) : s.barred x = true ↔ x.kind = .raw ∧ s.store.locked = true := by
  simp [State.barred]

/-- The decision changes the Capture Unit alone. -/
theorem decideCollection_frame (s : State) : s.decideCollection = { s with capture := s.decideCollection.capture } := by
  unfold State.decideCollection State.decideContinuous State.beginCollection State.mapCapture
  repeat' split
  all_goals rfl

/-- What the decision for the continuous request does. -/
theorem decideContinuous_spec (s : State) :
    let u := s.capture; let t := s.decideContinuous.capture
    t.single = u.single ∧ t.buffer = u.buffer ∧ t.missed = u.missed ∧
    ((∀ q, u.continuous = some q → q.next ≠ 0) → t.collection = u.collection ∧ t.continuous = u.continuous) ∧
    (∀ q, u.continuous = some q → q.next = 0 → s.barred q.target = false →
      t.collection = some (s.newCollection q.target true) ∧ t.continuous = some { q with next := q.interval }) ∧
    (∀ q, u.continuous = some q → q.next = 0 → s.barred q.target = true →
      t.collection = u.collection ∧ t.continuous = none) := by
  unfold State.decideContinuous
  cases hc : s.capture.continuous with
  | none => simp [hc]
  | some q =>
    by_cases hn : q.next = 0
    · cases hb : s.barred q.target <;> simp [hc, hn, hb, State.beginCollection, State.mapCapture, Continuous.served]
    · simp [hc, hn]

/-- What the lowering of the count and the decision do. -/
theorem decideCollection_decides (s : State) :
    CollectionDecided s (s.mapCapture Capture.lower).decideCollection := by
  obtain ⟨u, hu⟩ : ∃ u, u = s.mapCapture Capture.lower := ⟨_, rfl⟩
  have single : u.capture.single = s.capture.single := by rw [hu]; rfl
  have lowered : s.capture.continuous.map (fun q => { q with next := q.next - 1 }) = u.capture.continuous := by rw [hu]; rfl
  have fresh : ∀ x b, s.newCollection x b = u.newCollection x b := by intro x b; rw [hu]; rfl
  have bar : ∀ x, s.barred x = u.barred x := by intro x; rw [hu]; rfl
  have rest : u.capture.collection = s.capture.collection ∧ u.capture.buffer = s.capture.buffer ∧
      u.capture.missed = s.capture.missed := by rw [hu]; exact ⟨rfl, rfl, rfl⟩
  rw [← hu]
  unfold CollectionDecided
  dsimp only
  rw [lowered, ← single, ← rest.1, ← rest.2.1, ← rest.2.2]
  simp only [← barred_iff, bar, Bool.not_eq_true]
  have act : u.decideCollection = match u.capture.single with
      | some t =>
        if u.barred t then (u.mapCapture fun c => { c with single := none }).decideContinuous else u.beginCollection t
      | none => u.decideContinuous := rfl
  generalize u.decideCollection = d at act ⊢
  cases hs : u.capture.single with
  | none =>
    rw [hs] at act
    dsimp only at act
    obtain ⟨c1, c2, c3, c4, c5, c6⟩ := decideContinuous_spec u
    rw [act]
    exact ⟨c2, c3, nofun, fun _ => ⟨c1.trans hs, c4, fun q h n b =>
      ⟨(c5 q h n b).1.trans (congrArg some (fresh _ _).symm), (c5 q h n b).2⟩, c6⟩⟩
  | some x =>
    rw [hs] at act
    dsimp only at act
    cases hb : u.barred x with
    | true =>
      rw [if_pos hb] at act
      obtain ⟨c1, c2, c3, c4, c5, c6⟩ := decideContinuous_spec (u.mapCapture fun c => { c with single := none })
      rw [act]
      refine ⟨c2, c3, fun y e b => ?_, fun _ => ⟨c1, c4, fun q h n b => ?_, c6⟩⟩
      · cases e; rw [hb] at b; cases b
      · exact ⟨(c5 q h n b).1.trans (congrArg some (fresh _ _).symm), (c5 q h n b).2⟩
    | false =>
      rw [if_neg (by rw [hb]; decide)] at act
      rw [act]
      refine ⟨rfl, rfl, fun y e b => ?_, ?_⟩
      · cases e
        exact ⟨hs, congrArg some (fresh _ _).symm, rfl⟩
      · rintro (h | ⟨y, e, b⟩)
        · cases h
        · cases e; rw [hb] at b; cases b

end Sys2Proof.Machine
end

