-- ==== Sys2Proof/Laws/Formats.lean ====
section
/-! SUPPORT. How packed fields lie in their bytes: twelve-bit values two to three bytes, most significant bit first. -/

namespace Sys2Proof.Machine

/-- The least shift is one that fits, and no smaller one does, where the greatest fits. -/
theorem leastShift_spec (top : Nat) (fits : Nat → Bool) (h : fits top = true) :
    leastShift top fits ≤ top ∧ fits (leastShift top fits) = true ∧ ∀ n, n < leastShift top fits → fits n = false := by
  unfold leastShift
  cases found : (List.range (top + 1)).find? fits with
  | none => exact absurd h (by simpa using List.find?_eq_none.mp found top (by simp))
  | some n =>
    obtain ⟨hit, hn, before⟩ := List.find?_range_eq_some.mp found
    refine ⟨?_, hit, fun m hm => ?_⟩
    · simp at hn ⊢; omega
    · simpa using before m hm

/-- Only the low bits of a number are packed. -/
theorem bitsOf_congr {m n : Nat} : ∀ w, (∀ k, k < w → m.testBit k = n.testBit k) → bitsOf m w = bitsOf n w
  | 0, _ => rfl
  | w + 1, h => by simp [bitsOf, h w (by omega), bitsOf_congr w fun k hk => h k (by omega)]

theorem bitsOf_mod (n w : Nat) : bitsOf (n % 2 ^ w) w = bitsOf n w :=
  bitsOf_congr w fun k hk => by simp [Nat.testBit_mod_two_pow, hk]

theorem bitsOf_ofNat (n w : Nat) : bitsOf (BitVec.ofNat w n).toNat w = bitsOf n w := by
  rw [BitVec.toNat_ofNat, bitsOf_mod]

theorem bitsOf_length (n : Nat) : ∀ w, (bitsOf n w).length = w
  | 0 => rfl
  | w + 1 => by simp [bitsOf, bitsOf_length n w]

/-- The bits of a concatenation are the bits of its parts. -/
theorem bitsOf_append {v w : Nat} (x : BitVec v) (y : BitVec w) :
    bitsOf (x ++ y).toNat (v + w) = bitsOf x.toNat v ++ bitsOf y.toNat w := by
  have split : ∀ n u, bitsOf n (u + w) = bitsOf (n >>> w) u ++ bitsOf n w := by
    intro n u
    induction u with
    | zero => simp [bitsOf]
    | succ u ih => rw [show u + 1 + w = (u + w) + 1 by omega, bitsOf, ih, bitsOf, Nat.testBit_shiftRight, Nat.add_comm w u]; rfl
  rw [split]
  congr 1
  · apply bitsOf_congr
    intro k hk
    rw [Nat.testBit_shiftRight, BitVec.testBit_toNat, BitVec.testBit_toNat, BitVec.getLsbD_append]
    simp
  · apply bitsOf_congr
    intro k hk
    rw [BitVec.testBit_toNat, BitVec.testBit_toNat, BitVec.getLsbD_append]
    simp [hk]

/-- Eight bits make one byte. -/
theorem byteOf_bits (b : Byte) : byteOf (bitsOf b.toNat 8) = b := by
  revert b; decide +kernel

theorem packBits_byte (b : Byte) (rest : List Bool) : packBits (bitsOf b.toNat 8 ++ rest) = b :: packBits rest := by
  rw [show packBits (bitsOf b.toNat 8 ++ rest) = byteOf (bitsOf b.toNat 8) :: packBits rest from rfl, byteOf_bits]

/-- Three bytes hold the twenty-four bits they are cut from. -/
theorem triBytes_joined (z : BitVec 24) :
    (z.extractLsb' 16 8 ++ z.extractLsb' 8 8 ++ z.extractLsb' 0 8 : BitVec 24) = z := by
  apply BitVec.eq_of_getLsbD_eq
  intro k hk
  simp only [BitVec.getLsbD_append, BitVec.getLsbD_extractLsb', Nat.zero_add]
  by_cases h1 : k < 8
  · simp [h1]
  · by_cases h2 : k - 8 < 8
    · simp [h1, h2, show 8 + (k - 8) = k by omega]
    · simp [h1, h2, show k - 8 - 8 < 8 by omega, show 16 + (k - 8 - 8) = k by omega]

/-- The two bytes of a 16-bit field hold it. -/
theorem halfBytes_joined (z : Half) : (z.extractLsb' 8 8 ++ z.extractLsb' 0 8 : Half) = z := by
  apply BitVec.eq_of_getLsbD_eq
  intro k hk
  simp only [BitVec.getLsbD_append, BitVec.getLsbD_extractLsb', Nat.zero_add]
  by_cases h1 : k < 8
  · simp [h1]
  · simp [h1, show k - 8 < 8 by omega, show 8 + (k - 8) = k by omega]

/-- Twenty-four bits make three bytes. -/
theorem packBits_tri (z : BitVec 24) (rest : List Bool) :
    packBits (bitsOf z.toNat 24 ++ rest) = triBytes z ++ packBits rest := by
  have h := bitsOf_append (z.extractLsb' 16 8 ++ z.extractLsb' 8 8 : BitVec 16) (z.extractLsb' 0 8)
  rw [triBytes_joined, bitsOf_append] at h
  change packBits (bitsOf z.toNat (8 + 8 + 8) ++ rest) = _
  rw [h, List.append_assoc, List.append_assoc, packBits_byte, packBits_byte,
    packBits_byte]
  rfl

/-- Sixteen bits make two bytes. -/
theorem packBits_half (z : Half) : packBits (bitsOf z.toNat 16) = halfBytes z := by
  have h := bitsOf_append (z.extractLsb' 8 8) (z.extractLsb' 0 8)
  rw [halfBytes_joined] at h
  change packBits (bitsOf z.toNat (8 + 8)) = _
  rw [h, packBits_byte, ← List.append_nil (bitsOf _ 8), packBits_byte]
  rfl

/-- Values of twelve bits, packed. -/
def packTwelve (l : List (BitVec 12)) : List Byte := packBits (l.flatMap fun x => bitsOf x.toNat 12)

theorem packTwelve_pair (a b : BitVec 12) (rest : List (BitVec 12)) :
    packTwelve (a :: b :: rest) = triBytes (a ++ b) ++ packTwelve rest := by
  have h := bitsOf_append a b
  simp only [packTwelve, List.flatMap_cons, ← List.append_assoc]
  rw [← h, packBits_tri]

theorem packTwelve_single (a : BitVec 12) : packTwelve [a] = halfBytes (a ++ 0#4) := by
  have h := bitsOf_append a 0#4
  rw [← packBits_half, h]
  simp only [packTwelve, List.flatMap_cons, List.flatMap_nil, List.append_nil]
  rfl

/-- Two values to three bytes, and two bytes for a last one that has no partner. -/
theorem packTwelve_length : ∀ l, (packTwelve l).length = (3 * l.length + 1) / 2
  | [] => rfl
  | [a] => by rw [packTwelve_single]; simp [halfBytes]
  | a :: b :: rest => by
    rw [packTwelve_pair, List.length_append, packTwelve_length rest]
    simp only [triBytes, List.length_cons, List.length_nil]
    omega

/-- Where a pair of values lies. -/
theorem packTwelve_at : ∀ (n : Nat) (l : List (BitVec 12)) (a b : BitVec 12), l[2 * n]? = some a → l[2 * n + 1]? = some b →
    ((packTwelve l).drop (3 * n)).take 3 = triBytes (a ++ b)
  | _, [], _, _, h, _ => by simp at h
  | _, [x], _, _, _, h => by simp at h
  | 0, x :: y :: rest, a, b, h, k => by
    simp at h k
    rw [packTwelve_pair, h, k]
    rfl
  | n + 1, x :: y :: rest, a, b, h, k => by
    rw [packTwelve_pair, show 3 * (n + 1) = (triBytes (x ++ y)).length + 3 * n by simp [triBytes]; omega,
      List.drop_length_add_append]
    exact packTwelve_at n rest a b h k

/-- Where a last value without a partner lies. -/
theorem packTwelve_last : ∀ (n : Nat) (l : List (BitVec 12)) (a : BitVec 12), l.length = 2 * n + 1 → l[2 * n]? = some a →
    (packTwelve l).drop (3 * n) = halfBytes (a ++ 0#4)
  | _, [], _, h, _ => by simp at h
  | 0, [x], a, _, h => by
    simp at h
    rw [h, packTwelve_single]
    rfl
  | n + 1, [x], _, h, _ => by simp at h
  | 0, x :: y :: rest, _, h, _ => by simp at h
  | n + 1, x :: y :: rest, a, h, k => by
    rw [packTwelve_pair, show 3 * (n + 1) = (triBytes (x ++ y)).length + 3 * n by simp [triBytes]; omega,
      List.drop_length_add_append]
    exact packTwelve_last n rest a (by simp at h; omega) k

/-- METER READ's packed part, as values of twelve bits. -/
theorem meterBody_packed (meters : List Meter) :
    let shift := meterShift (meters.map (·.value))
    meterBody meters = u8 shift ++ wordBytes (BitVec.ofNat 32 (staleField (meters.map (·.stale)))) ++
      packTwelve (meters.map fun m => BitVec.ofNat 12 (m.value / 2 ^ shift)) := by
  simp only [meterBody, packTwelve, List.flatMap_map, bitsOf_ofNat]

/-- The RAW part's packed samples, as values of twelve bits, a sample each. -/
theorem rawPart_packed (samples : List Sample) :
    rawPart samples = u8 (rawShift samples) ++ packTwelve (samples.map fun x =>
      (BitVec.ofInt 6 (x.i / 2 ^ rawShift samples) ++ BitVec.ofInt 6 (x.q / 2 ^ rawShift samples) : BitVec 12)) := by
  simp only [rawPart, packTwelve, components, List.flatMap_map, List.flatMap_assoc]
  congr 2
  apply congrArg (fun f => List.flatMap f samples)
  funext x
  have h := bitsOf_append (BitVec.ofInt 6 (x.i / 2 ^ rawShift samples)) (BitVec.ofInt 6 (x.q / 2 ^ rawShift samples))
  simp only [List.flatMap_cons, List.flatMap_nil, List.append_nil]
  exact h.symm

/-- Bit `n` of the stale field is the flag of the entry at `n`. -/
theorem staleField_testBit : ∀ (l : List Bool) (n : Nat), (staleField l).testBit n = (l[n]?).getD false
  | [], n => by simp [staleField]
  | b :: l, 0 => by
    simp only [staleField, Nat.testBit_zero]
    cases b <;> simp
  | b :: l, n + 1 => by
    have h : (b.toNat + 2 * staleField l) / 2 = staleField l := by cases b <;> simp [Nat.add_mul_div_left]
    rw [staleField, Nat.testBit_succ, h, staleField_testBit l n]
    rfl

end Sys2Proof.Machine
end

