-- ==== Sys2Proof/Laws/Lane.lean ====
section
/-! SUPPORT. The Management Lane: how a command comes to execute, and that making its response changes the lane alone. -/

namespace Sys2Proof.Machine

variable (s : State)

/-! ## A response changes the lane alone -/

@[simp] theorem deliver_pending (m : Message) : (s.deliver m).pending = s.pending := by unfold State.deliver; split <;> rfl
@[simp] theorem deliver_arriving (m : Message) : (s.deliver m).arriving = s.arriving := by unfold State.deliver; split <;> rfl
@[simp] theorem deliver_freeCount (m : Message) : (s.deliver m).freeCount = s.freeCount := by unfold State.deliver; split <;> rfl
@[simp] theorem deliver_frame (m : Message) : (s.deliver m).frame = s.frame := by unfold State.deliver; split <;> rfl
@[simp] theorem deliver_reference (m : Message) : (s.deliver m).reference = s.reference := by unfold State.deliver; split <;> rfl
@[simp] theorem deliver_markerSkipped (m : Message) : (s.deliver m).markerSkipped = s.markerSkipped := by unfold State.deliver; split <;> rfl
@[simp] theorem deliver_mgmtPort (m : Message) : (s.deliver m).mgmtPort = s.mgmtPort := by unfold State.deliver; split <;> rfl
@[simp] theorem deliver_ports (m : Message) : (s.deliver m).ports = s.ports := by unfold State.deliver; split <;> rfl
@[simp] theorem deliver_feeds (m : Message) : (s.deliver m).feeds = s.feeds := by unfold State.deliver; split <;> rfl
@[simp] theorem deliver_fabric (m : Message) : (s.deliver m).fabric = s.fabric := by unfold State.deliver; split <;> rfl
@[simp] theorem deliver_links (m : Message) : (s.deliver m).links = s.links := by unfold State.deliver; split <;> rfl
@[simp] theorem deliver_spokes (m : Message) : (s.deliver m).spokes = s.spokes := by unfold State.deliver; split <;> rfl
@[simp] theorem deliver_restoreSettle (m : Message) : (s.deliver m).restoreSettle = s.restoreSettle := by unfold State.deliver; split <;> rfl
@[simp] theorem deliver_pollPeriod (m : Message) : (s.deliver m).pollPeriod = s.pollPeriod := by unfold State.deliver; split <;> rfl
@[simp] theorem deliver_takerPos (m : Message) : (s.deliver m).takerPos = s.takerPos := by unfold State.deliver; split <;> rfl
@[simp] theorem deliver_slots (m : Message) : (s.deliver m).slots = s.slots := by unfold State.deliver; split <;> rfl
@[simp] theorem deliver_pointer (m : Message) : (s.deliver m).pointer = s.pointer := by unfold State.deliver; split <;> rfl
@[simp] theorem deliver_staging (m : Message) : (s.deliver m).staging = s.staging := by unfold State.deliver; split <;> rfl
@[simp] theorem deliver_engine (m : Message) : (s.deliver m).engine = s.engine := by unfold State.deliver; split <;> rfl
@[simp] theorem deliver_meters (m : Message) : (s.deliver m).meters = s.meters := by unfold State.deliver; split <;> rfl
@[simp] theorem deliver_groups (m : Message) : (s.deliver m).groups = s.groups := by unfold State.deliver; split <;> rfl
@[simp] theorem deliver_capture (m : Message) : (s.deliver m).capture = s.capture := by unfold State.deliver; split <;> rfl
@[simp] theorem deliver_settings (m : Message) : (s.deliver m).settings = s.settings := by unfold State.deliver; split <;> rfl
@[simp] theorem deliver_quals (m : Message) : (s.deliver m).quals = s.quals := by unfold State.deliver; split <;> rfl
@[simp] theorem deliver_handed (m : Message) : (s.deliver m).handed = s.handed := by unfold State.deliver; split <;> rfl
@[simp] theorem deliver_channels (m : Message) : (s.deliver m).channels = s.channels := by unfold State.deliver; split <;> rfl
@[simp] theorem deliver_tracking (m : Message) : (s.deliver m).tracking = s.tracking := by unfold State.deliver; split <;> rfl
@[simp] theorem deliver_store (m : Message) : (s.deliver m).store = s.store := by unfold State.deliver; split <;> rfl
@[simp] theorem deliver_due (m : Message) : (s.deliver m).due = s.due := by unfold State.deliver; split <;> rfl

/-! ## Taking and executing -/

theorem command_of_claim {i : Instr} {t : State} (act : State → Reply) (h : s.claim i = some t) :
    s.command i act = t.run i act := by simp [State.command, h]

theorem run_of_wf {i : Instr} (act : State → Reply) (h : i.wf = true) :
    s.run i act = (act s).state.deliver (.response i.tag i.code (act s).status (act s).body) := by
  simp [State.run, h]

theorem run_of_not_wf {i : Instr} (act : State → Reply) (h : i.wf = false) :
    s.run i act = s.deliver (.response i.tag i.code .malformed []) := by
  simp [State.run, h, State.refuse]

/-- A command that is taken and executed: what its answer is. -/
theorem command_answers {i : Instr} {t : State} (act : State → Reply) (h : s.claim i = some t) (w : i.wf = true) :
    s.command i act = (act t).state.deliver (.response i.tag i.code (act t).status (act t).body) := by
  rw [command_of_claim s act h, run_of_wf t act w]

/-- How a command's answer is shown: it is taken, and its act on the state it is taken in is known. -/
theorem answers_of {i : Instr} {t : State} {act : State → Reply} {st : Status} {body : List Byte} {u : State}
    (he : exec i s = .next (s.command i act)) (h : s.claim i = some t) (w : i.wf = true) (ha : act t = ⟨st, body, u⟩) :
    Answers i s st body u := by
  unfold Answers
  rw [he, command_answers s act h w, ha]

/-- The abandoning of a starved assembly, due or not. -/
theorem abandonTurn_frame : s.abandonTurn = { s with
    lane := { s.lane with assembly := if s.due.abandon then none else s.lane.assembly }
    due := { s.due with abandon := false } } := by
  unfold State.abandonTurn
  split
  · rfl
  · next h =>
    have e : { s.due with abandon := false } = s.due := by rw [← show s.due.abandon = false by simpa using h]
    exact (congrArg (fun d => { s with due := d }) e).symm

/-- A message's arrival uses up the frame's bytes and abandons a starved assembly. -/
theorem receive_frame (i : Instr) : s.receive i = { s with
    lane := { s.lane with
      received := s.lane.received + i.messageBytes.length, assembly := if s.due.abandon then none else s.lane.assembly }
    due := { s.due with abandon := false } } := by
  unfold State.receive
  rw [abandonTurn_frame]
  rfl

/-- Taking a command changes the intake queue, or is its arrival. -/
theorem claim_lane {i : Instr} {t : State} (h : s.claim i = some t) :
    t = { s with
      lane := { s.lane with intake := t.lane.intake, received := t.lane.received, assembly := t.lane.assembly }
      due := { s.due with abandon := t.due.abandon } } := by
  unfold State.claim at h
  split at h
  · split at h
    · split at h
      · cases h; rfl
      · cases h
    · split at h
      · cases h
        rw [receive_frame]
      · cases h
  · cases h

/-- Taking a command leaves an assembly in progress as it was, or drops it. -/
theorem claim_assembly {i : Instr} {t : State} (h : s.claim i = some t) :
    t.lane.assembly = s.lane.assembly ∨ t.lane.assembly = none := by
  unfold State.claim at h
  split at h
  · split at h
    · split at h
      · cases h; exact .inl rfl
      · cases h
    · split at h
      · cases h
        rw [receive_frame]
        cases s.due.abandon
        · exact .inl rfl
        · exact .inr rfl
      · cases h
  · cases h

/-! ## The places of the Outbound Queue -/

/-- What the claims of the two responses do: the free places go to the RESYNC holder's response, then to the held one. -/
theorem takeResponses_spec (l : Lane) : l.takeResponses = { l with
    outbound := l.outbound ++ (l.holder.toList ++ l.held.toList).take (8 - l.outbound.length)
    holder := if 0 < 8 - l.outbound.length then none else l.holder
    held := if l.holder.toList.length < 8 - l.outbound.length then none else l.held } := by
  unfold Lane.takeResponses Lane.takeHolder Lane.takeHeld Lane.enqueue Lane.free
  rcases l with ⟨_, _, _, _, _, _, _, holder, held, _, outbound, _, _, _, _⟩
  dsimp only
  rcases hn : 8 - outbound.length with _ | _ | n <;> cases holder <;> cases held <;> simp [hn] <;> omega

/-- What RESYNC does to the lane: its response takes a place after the responses that waited, or stands in the holder. -/
theorem resync_spec (tag : Byte) (l : Lane) : l.resync tag = { l with
    overrun := false, firstTag := none, discards := 0
    outbound := l.outbound ++
      ((l.holder.toList ++ l.held.toList) ++ [l.resyncResponse tag]).take (8 - l.outbound.length)
    holder := if (l.holder.toList ++ l.held.toList).length < 8 - l.outbound.length then none
      else some (l.resyncResponse tag)
    held := if l.holder.toList.length < 8 - l.outbound.length then none else l.held } := by
  unfold Lane.resync
  rw [takeResponses_spec]
  conv => lhs; rw [takeResponses_spec]
  generalize l.resyncResponse tag = m
  rcases l with ⟨_, _, _, _, _, _, _, holder, held, _, outbound, _, _, _, _⟩
  dsimp only
  rcases hn : 8 - outbound.length with _ | _ | _ | n <;> cases holder <;> cases held <;> simp [hn] <;> omega

theorem takeHolder_intake (l : Lane) : l.takeHolder.intake = l.intake := by
  unfold Lane.takeHolder; split <;> (try split) <;> rfl

theorem takeHeld_intake (l : Lane) : l.takeHeld.intake = l.intake := by
  unfold Lane.takeHeld; split <;> (try split) <;> rfl

theorem deliver_intake (m : Message) : (s.deliver m).lane.intake = s.lane.intake := by
  unfold State.deliver
  split
  · simp [Lane.takeResponses, takeHeld_intake, takeHolder_intake]
  · rfl

/-! ## The two responses' places, case by case (R160, R163) -/

theorem takeHolder_frame (l : Lane) : ∃ h o, l.takeHolder = { l with holder := h, outbound := o } := by
  unfold Lane.takeHolder; split <;> (try split) <;> exact ⟨_, _, rfl⟩

theorem takeHeld_frame (l : Lane) : ∃ d o, l.takeHeld = { l with held := d, outbound := o } := by
  unfold Lane.takeHeld; split <;> (try split) <;> exact ⟨_, _, rfl⟩

theorem takeResponses_frame (l : Lane) :
    ∃ h d o, l.takeResponses = { l with holder := h, held := d, outbound := o } := by
  unfold Lane.takeResponses
  obtain ⟨h, o, e⟩ := takeHolder_frame l
  rw [e]
  obtain ⟨d, p, f⟩ := takeHeld_frame { l with holder := h, outbound := o }
  exact ⟨_, _, _, f⟩

theorem takeHolder_none {l : Lane} (h : l.holder = none) : l.takeHolder = l := by
  unfold Lane.takeHolder; rw [h]

theorem takeHeld_none {l : Lane} (h : l.held = none) : l.takeHeld = l := by
  unfold Lane.takeHeld; rw [h]

theorem takeHolder_full {l : Lane} (h : 8 ≤ l.outbound.length) : l.takeHolder = l := by
  unfold Lane.takeHolder
  split
  · rw [if_neg (by unfold Lane.free; omega)]
  · rfl

theorem takeHeld_full {l : Lane} (h : 8 ≤ l.outbound.length) : l.takeHeld = l := by
  unfold Lane.takeHeld
  split
  · rw [if_neg (by unfold Lane.free; omega)]
  · rfl

theorem takeHolder_room {l : Lane} {m : Message} (h : l.holder = some m) (r : l.outbound.length < 8) :
    l.takeHolder = { l with outbound := l.outbound ++ [m], holder := none } := by
  unfold Lane.takeHolder; rw [h]; dsimp only; rw [if_pos (by unfold Lane.free; omega)]; rfl

theorem takeHeld_room {l : Lane} {m : Message} (h : l.held = some m) (r : l.outbound.length < 8) :
    l.takeHeld = { l with outbound := l.outbound ++ [m], held := none } := by
  unfold Lane.takeHeld; rw [h]; dsimp only; rw [if_pos (by unfold Lane.free; omega)]; rfl

/-- RESYNC clears the latch and its figures and keeps everything but the responses and the queue (R159). -/
theorem resync_frame (l : Lane) (tag : Byte) : ∃ h d o, l.resync tag = { l with
    overrun := false, firstTag := none, discards := 0, holder := h, held := d, outbound := o } := by
  unfold Lane.resync
  obtain ⟨h, d, o, e⟩ := takeResponses_frame l
  rw [e]
  dsimp only
  obtain ⟨h, d, o, e⟩ := takeResponses_frame { l with
    overrun := false, firstTag := none, discards := 0, holder := some (l.resyncResponse tag), held := d, outbound := o }
  exact ⟨_, _, _, e⟩

/-- RESYNC with neither response waiting and a place free: its response is in the queue. -/
theorem resync_room {l : Lane} (tag : Byte) (h : l.held = none) (g : l.holder = none) (r : l.outbound.length < 8) :
    (l.resync tag).outbound = l.outbound ++ [l.resyncResponse tag] ∧ (l.resync tag).holder = none := by
  have e : l.takeResponses = l := by unfold Lane.takeResponses; rw [takeHolder_none g, takeHeld_none h]
  unfold Lane.resync
  rw [e]
  unfold Lane.takeResponses
  dsimp only
  rw [takeHolder_room rfl (by exact r), takeHeld_none (by exact h)]
  exact ⟨rfl, rfl⟩

/-- RESYNC with every place taken: its response is in the holder. -/
theorem resync_full {l : Lane} (tag : Byte) (r : 8 ≤ l.outbound.length) :
    (l.resync tag).outbound = l.outbound ∧ (l.resync tag).holder = some (l.resyncResponse tag) := by
  have e : l.takeResponses = l := by unfold Lane.takeResponses; rw [takeHolder_full r, takeHeld_full r]
  unfold Lane.resync
  rw [e]
  unfold Lane.takeResponses
  dsimp only
  rw [takeHolder_full (by exact r), takeHeld_full (by exact r)]
  exact ⟨rfl, rfl⟩

end Sys2Proof.Machine
end

