-- ==== Sys2Proof/Laws/Intake.lean ====
section
/-! SUPPORT. Assembly byte by byte: what a run of bytes does to a message at the Intake (R156) and to a report at a spoke's
link (R34, R175), with an assembly in progress or none. -/

namespace Sys2Proof.Machine

/-! ## Messages -/

/-- A byte that is heard: a starved assembly is dropped, the byte is counted, and the Intake takes it. -/
theorem inboundByte_heard (s : State) (b : Byte) (up : s.mgmtUp = true) (room : s.lane.received < 256) :
    s.inboundByte b = State.intakeByte b { s with
      due := { s.due with abandon := false }
      lane := { s.lane with
        received := s.lane.received + 1, assembly := if s.due.abandon then none else s.lane.assembly } } := by
  unfold State.inboundByte
  rw [up, abandonTurn_frame]
  simp [room, State.mapLane]

/-- A byte after the length byte: it completes the message or is taken on. -/
theorem intakeByte_more (s : State) (b lead len : Byte) (rest : List Byte)
    (h : s.lane.assembly = some (lead :: len :: rest)) :
    s.intakeByte b = if rest.length + 3 = len.toNat then s.completeMessage (lead :: len :: rest ++ [b])
      else s.mapLane fun l => { l with assembly := some (lead :: len :: rest ++ [b]), fed := true } := by
  unfold State.intakeByte
  rw [h]
  simp

/-- What a message does as it completes. -/
theorem completeMessage_taken (s : State) (bytes : List Byte) (h : 4 ≤ bytes.length) :
    MessageTaken bytes (s.mapLane fun l => { l with assembly := none }) (s.completeMessage bytes) := by
  obtain ⟨x, y, z, v, rest, rfl⟩ : ∃ x y z v rest, bytes = x :: y :: z :: v :: rest := by
    match bytes, h with
    | x :: y :: z :: v :: rest, _ => exact ⟨x, y, z, v, rest, rfl⟩
  have command : (checkPasses (x :: y :: z :: v :: rest) && z.extractLsb' 6 2 == 1#2) = true ↔
      IsCommand (x :: y :: z :: v :: rest) := by simp [IsCommand, checkPasses]
  unfold State.completeMessage
  generalize (s.mapLane fun l => { l with assembly := none }) = u
  refine ⟨fun no => ?_, fun yes => ?_⟩
  · have none' : commandIn (x :: y :: z :: v :: rest) = none := by
      unfold commandIn
      exact if_neg fun g => no (command.mp g)
    rw [none']
  · obtain ⟨i, hi⟩ : ∃ i, commandIn (x :: y :: z :: v :: rest) = some i := by
      unfold commandIn
      dsimp only
      rw [if_pos (command.mpr yes)]
      exact ⟨_, rfl⟩
    rw [hi]
    refine ⟨i, rfl, fun tag h => by rw [h]; rfl, fun h => ?_⟩
    have taken : u.takeCommand i = u.offer i := by
      unfold State.takeCommand
      split
      · next tag => exact absurd rfl (h tag)
      · rfl
    dsimp only
    rw [taken]
    unfold State.offer
    refine ⟨fun o l => ?_, fun o l => ?_, fun o => ?_⟩
    · rw [if_neg (by simp [o]), if_pos l]; rfl
    · rw [if_neg (by simp [o]), if_neg (by omega)]; rfl
    · rw [if_pos o]; rfl

/-- A byte of a message that is not its last, from the first on. -/
theorem inboundByte_on (s : State) (b : Byte) (rest : List Byte) (more : rest ≠ []) (up : s.mgmtUp = true)
    (room : s.lane.received < 256)
    (whole : WholeMessage ((if s.due.abandon then [] else s.lane.assembly.getD []) ++ b :: rest)) :
    s.inboundByte b = { s with
      due := { s.due with abandon := false }
      lane := { s.lane with
        received := s.lane.received + 1, fed := true
        assembly := some ((if s.due.abandon then [] else s.lane.assembly.getD []) ++ [b]) } } := by
  rw [inboundByte_heard s b up room]
  have begun : (if s.due.abandon then [] else s.lane.assembly.getD []) =
      (if s.due.abandon then none else s.lane.assembly).getD [] := by split <;> rfl
  rw [begun] at whole ⊢
  generalize (if s.due.abandon = true then none else s.lane.assembly) = a at whole ⊢
  obtain ⟨w1, w2, w3, w4⟩ := whole
  have left : 0 < rest.length := List.length_pos_iff.mpr more
  rcases a with _ | _ | ⟨lead, _ | ⟨len, taken⟩⟩
  · have : b = messageLead := Option.some.inj w1
    simp [State.intakeByte, this, State.mapLane]
  · simp [State.intakeByte, State.mapLane]
  · simp at w2 w3 w4
    have hb : b.toNat = rest.length + 2 := by rw [w4]; simp; omega
    simp [State.intakeByte, State.mapLane]
    omega
  · simp at w2 w3 w4
    have hl : len.toNat = taken.length + (rest.length + 3) := by rw [w4]; simp; omega
    rw [intakeByte_more _ b lead len taken rfl, if_neg (by omega)]
    rfl

/-- The bytes still missing of a whole message complete it. -/
theorem inboundBytes_complete (bytes : List Byte) (s : State) (some' : bytes ≠ []) (up : s.mgmtUp = true)
    (room : s.lane.received + bytes.length ≤ 256)
    (whole : WholeMessage ((if s.due.abandon then [] else s.lane.assembly.getD []) ++ bytes)) :
    bytes.foldl (fun t b => t.inboundByte b) s =
      State.completeMessage ((if s.due.abandon then [] else s.lane.assembly.getD []) ++ bytes) { s with
        due := { s.due with abandon := false }
        lane := { s.lane with
          received := s.lane.received + bytes.length, assembly := none
          fed := s.lane.fed || decide (2 ≤ bytes.length) } } := by
  induction bytes generalizing s with
  | nil => exact absurd rfl some'
  | cons b rest ih =>
    rw [List.length_cons] at room
    rw [List.foldl_cons]
    by_cases last : rest = []
    · subst last
      rw [List.foldl_nil, inboundByte_heard s b up (by omega)]
      have begun : (if s.due.abandon then [] else s.lane.assembly.getD []) =
          (if s.due.abandon then none else s.lane.assembly).getD [] := by split <;> rfl
      rw [begun] at whole ⊢
      generalize (if s.due.abandon = true then none else s.lane.assembly) = a at whole ⊢
      obtain ⟨_, w2, w3, w4⟩ := whole
      rcases a with _ | _ | ⟨lead, _ | ⟨len, taken⟩⟩ <;> simp at w2 w3 w4
      have hl : len.toNat = taken.length + 3 := by rw [w4]; simp; omega
      rw [intakeByte_more _ b lead len taken rfl, if_pos hl.symm]
      simp [State.completeMessage, State.mapLane]
    · rw [inboundByte_on s b rest last up (by omega) whole]
      have h := ih { s with
        due := { s.due with abandon := false }
        lane := { s.lane with
          received := s.lane.received + 1, fed := true
          assembly := some ((if s.due.abandon then [] else s.lane.assembly.getD []) ++ [b]) } }
        last up (by show s.lane.received + 1 + rest.length ≤ 256; omega)
        (by simpa using whole)
      have long : decide (2 ≤ (b :: rest).length) = true := by
        have := List.length_pos_iff.mpr last
        simp; omega
      rw [h, long]
      simp [Nat.add_assoc, Nat.add_comm 1]

/-- A message that completes leaves no assembly. -/
theorem completeMessage_assembly (s : State) (bytes : List Byte) : (s.completeMessage bytes).lane.assembly = none := by
  unfold State.completeMessage
  dsimp only
  split
  · next i _ =>
    unfold State.takeCommand
    split
    · show (Lane.resync _ _).assembly = none
      rw [resync_spec]
      rfl
    · unfold State.offer
      split
      · rfl
      · split <;> rfl
  · rfl

/-- A byte keeps the form of an assembly in progress (R156). -/
theorem intakeByte_open (s : State) (b : Byte) (h : assemblyOpen s.lane.assembly = true) :
    assemblyOpen (s.intakeByte b).lane.assembly = true := by
  rcases e : s.lane.assembly with _ | _ | ⟨lead, _ | ⟨len, rest⟩⟩
  · unfold State.intakeByte
    rw [e]
    dsimp only
    split
    · next hb => rw [hb]; rfl
    · rw [e]; rfl
  · rw [e] at h; cases h
  · rw [e] at h
    unfold State.intakeByte
    rw [e]
    dsimp only
    split
    · next hb => simpa [State.mapLane, assemblyOpen, hb] using ⟨by simpa [assemblyOpen] using h, by omega⟩
    · rfl
  · rw [e] at h
    rw [intakeByte_more s b lead len rest e]
    split
    · rw [completeMessage_assembly]; rfl
    · simp [assemblyOpen] at h
      simp [State.mapLane, assemblyOpen, h]
      omega

/-! ## Reports -/

/-- Two changes of one record are one. -/
theorem mapSpoke_twice (s : State) (i : SpokeId) (f g : SpokeRec → SpokeRec) :
    (s.mapSpoke i f).mapSpoke i g = s.mapSpoke i fun r => g (f r) := by
  unfold State.mapSpoke
  congr 1
  apply table_ext
  intro j
  simp only [update_get]
  split <;> simp

/-- The spoke whose record is changed. -/
theorem mapSpoke_here (s : State) (i : SpokeId) (f : SpokeRec → SpokeRec) : (s.mapSpoke i f).spokes[i] = f s.spokes[i] :=
  update_same _ _ _

/-- What a report does as it completes. -/
theorem completeReport_enters (s : State) (i : SpokeId) (rep : Report) : ReportEnters i rep s (s.completeReport i rep) := by
  unfold State.completeReport
  dsimp only
  rw [mapSpoke_here]
  refine ⟨fun o q => ?_, fun o => ?_, fun o q => ?_⟩
  · rw [if_neg (by rw [o]; decide), if_pos q, mapSpoke_twice]
  · rw [if_pos o]
  · intro kind
    rw [if_neg (by rw [o]; decide), if_neg (Nat.not_lt.mpr q), mapSpoke_twice]
    rfl

/-- What was assembled before does not matter to a report that completes. -/
theorem completeReport_assembly (s : State) (i : SpokeId) (rep : Report) (a : Option (List Byte)) :
    (s.mapSpoke i fun r => { r with assembly := a }).completeReport i rep = s.completeReport i rep := by
  unfold State.completeReport
  rw [mapSpoke_twice]

/-- A byte after the length byte: it completes the report or is taken on. -/
theorem reportByte_more (s : State) (i : SpokeId) (b lead len : Byte) (rest : List Byte) (l : s.links[i].locked = true)
    (h : s.spokes[i].assembly = some (lead :: len :: rest)) :
    s.reportByte i b = if rest.length + 3 = len.toNat then s.completeReport i (readReport (lead :: len :: rest ++ [b]))
      else s.mapSpoke i fun r => { r with assembly := some (lead :: len :: rest ++ [b]) } := by
  unfold State.reportByte
  rw [l, if_neg (by decide), h]
  simp

/-- The byte after the lead byte is the length: it is taken on, or completes the report there. -/
theorem reportByte_length (s : State) (i : SpokeId) (b lead : Byte) (l : s.links[i].locked = true)
    (h : s.spokes[i].assembly = some [lead]) :
    s.reportByte i b = if 5 ≤ b.toNat ∧ b.toNat ≤ 12 then s.mapSpoke i fun r => { r with assembly := some [lead, b] }
      else s.completeReport i (.damaged .unreadable) := by
  unfold State.reportByte
  rw [l, if_neg (by decide), h]

/-- The lead byte, with nothing taken before. -/
theorem reportByte_lead (s : State) (i : SpokeId) (l : s.links[i].locked = true)
    (h : s.spokes[i].assembly.getD [] = []) :
    s.reportByte i reportLead = s.mapSpoke i fun r => { r with assembly := some [reportLead] } := by
  unfold State.reportByte
  rw [l, if_neg (by decide)]
  rcases e : s.spokes[i].assembly with _ | _ | ⟨x, y⟩
  · simp
  · simp [reportLead]
  · rw [e] at h; cases h

/-- The bytes still missing of a whole report complete it. -/
theorem reportBytes_complete (bytes : List Byte) (s : State) (i : SpokeId) (len : Byte) (rest : List Byte)
    (l : s.links[i].locked = true) (some' : bytes ≠ [])
    (whole : s.spokes[i].assembly.getD [] ++ bytes = reportLead :: len :: rest) (low : 5 ≤ len.toNat)
    (high : len.toNat ≤ 12) (all : rest.length + 2 = len.toNat) :
    bytes.foldl (fun t b => t.reportByte i b) s = s.completeReport i (readReport (reportLead :: len :: rest)) := by
  induction bytes generalizing s with
  | nil => exact absurd rfl some'
  | cons b more ih =>
    rw [List.foldl_cons]
    have on : ∀ a : List Byte, a = s.spokes[i].assembly.getD [] ++ [b] → more ≠ [] →
        s.reportByte i b = s.mapSpoke i (fun r => { r with assembly := some a }) →
        more.foldl (fun t b => t.reportByte i b) (s.reportByte i b) =
          s.completeReport i (readReport (reportLead :: len :: rest)) := by
      intro a ha left e
      rw [e]
      exact (ih (s.mapSpoke i fun r => { r with assembly := some a }) l left
        (by rw [mapSpoke_here]; simpa [ha] using whole)).trans (completeReport_assembly s i _ _)
    rcases e : s.spokes[i].assembly with _ | _ | ⟨lead, _ | ⟨n, taken⟩⟩ <;> rw [e] at whole on <;> simp at whole
    · obtain ⟨rfl, hm⟩ := whole
      exact on _ rfl (by rw [hm]; simp) (reportByte_lead s i l (by rw [e]; rfl))
    · obtain ⟨rfl, hm⟩ := whole
      exact on _ rfl (by rw [hm]; simp) (reportByte_lead s i l (by rw [e]; rfl))
    · obtain ⟨rfl, rfl, hm⟩ := whole
      have left : more ≠ [] := by rintro rfl; rw [← hm] at all; simp at all; omega
      exact on _ rfl left (by rw [reportByte_length s i b _ l e, if_pos ⟨low, high⟩]; rfl)
    · obtain ⟨rfl, rfl, hm⟩ := whole
      have count : rest.length = taken.length + (more.length + 1) := by rw [← hm]; simp
      by_cases last : more = []
      · subst last
        rw [List.foldl_nil, reportByte_more s i b _ _ taken l e, if_pos (by simp at count; omega), ← hm]
        rfl
      · have := List.length_pos_iff.mpr last
        exact on _ rfl last (by rw [reportByte_more s i b _ _ taken l e, if_neg (by omega)]; rfl)

/-- A lead byte and a length outside 5 to 12 complete a damaged report. -/
theorem reportBytes_short (bytes : List Byte) (s : State) (i : SpokeId) (len : Byte) (l : s.links[i].locked = true)
    (some' : bytes ≠ []) (whole : s.spokes[i].assembly.getD [] ++ bytes = [reportLead, len])
    (out : len.toNat < 5 ∨ 12 < len.toNat) :
    bytes.foldl (fun t b => t.reportByte i b) s = s.completeReport i (.damaged .unreadable) := by
  have second : ∀ t : State, t.links[i].locked = true → t.spokes[i].assembly = some [reportLead] →
      t.reportByte i len = t.completeReport i (.damaged .unreadable) := fun t lt h => by
    rw [reportByte_length t i len _ lt h, if_neg (by omega)]
  have both : s.spokes[i].assembly.getD [] = [] → bytes = [reportLead, len] →
      bytes.foldl (fun t b => t.reportByte i b) s = s.completeReport i (.damaged .unreadable) := by
    rintro e rfl
    rw [List.foldl_cons, List.foldl_cons, List.foldl_nil, reportByte_lead s i l e,
      second (s.mapSpoke i _) l (by rw [mapSpoke_here]), completeReport_assembly]
  rcases e : s.spokes[i].assembly with _ | _ | ⟨lead, _ | ⟨n, taken⟩⟩ <;> rw [e] at whole both
  · exact both rfl (by simpa using whole)
  · exact both rfl (by simpa using whole)
  · obtain ⟨rfl, rfl⟩ : lead = reportLead ∧ bytes = [len] := by simpa using whole
    exact second s l e
  · cases bytes with
    | nil => exact absurd rfl some'
    | cons x xs => simp at whole

end Sys2Proof.Machine
end

