-- ==== Sys2Proof/Laws/Moved.lean ====
section
/-! SUPPORT. What any event of a spoke, a group, the engine, the Capture Unit or the Store Controller can do to the hub:
`Moved` says it once, for every operation that blocks share and every turn of a boundary. -/

namespace Sys2Proof.Machine

/-! ## The engine -/

/-- The engine's own part of EngineCoherent. -/
def Engine.coherent (e : Engine) : Prop :=
  e.order.toList.Nodup ∧ (e.state = .idle → e.current = none) ∧
    (e.state = .halting → e.stepInHand = true) ∧ (e.state ≠ .idle → e.params.isSome)

/-- What the engine keeps: its order, no slot bound anew, and its items together. -/
structure EngineMoves (e f : Engine) : Prop where
  order : f.order = e.order
  holds : ∀ k, f.holds k = true → e.holds k = true
  coherent : e.coherent → f.coherent

theorem EngineMoves.refl (e : Engine) : EngineMoves e e := ⟨rfl, fun _ h => h, fun h => h⟩

theorem EngineMoves.trans {e f g : Engine} (h : EngineMoves e f) (k : EngineMoves f g) : EngineMoves e g :=
  ⟨k.order.trans h.order, fun x hx => h.holds x (k.holds x hx), fun c => k.coherent (h.coherent c)⟩

/-! ## Channels -/

/-- One channel's part of ChannelsOrdered. -/
def Channel.ordered (tracking : Bool) (c : Channel) : Prop :=
  (c.enabled = false → c.list = []) ∧ (c.list.map (·.source)).Nodup ∧ (tracking = false → c.inService = false)

theorem gather_sources (fr : Half) (src : Option Nat) (d : Detail) (l : List SourceEntry) :
    (gather fr src d l).map (·.source) =
      if src ∈ l.map (·.source) then l.map (·.source) else l.map (·.source) ++ [src] := by
  induction l with
  | nil => simp [gather]
  | cons e es ih =>
    unfold gather
    by_cases h : e.source = src
    · simp [h]
    · have h' : ¬ src = e.source := fun x => h x.symm
      simp only [h, if_false, List.map_cons, ih, List.mem_cons, h', false_or]
      split <;> simp

theorem gather_nodup {l : List SourceEntry} (fr : Half) (src : Option Nat) (d : Detail)
    (h : (l.map (·.source)).Nodup) : ((gather fr src d l).map (·.source)).Nodup := by
  rw [gather_sources]
  split
  · exact h
  · next n =>
    rw [List.nodup_append]
    refine ⟨h, by simp, ?_⟩
    intro a ha b hb e
    simp at hb
    subst hb
    exact n (e ▸ ha)

theorem Channel.raise_ordered {tr : Bool} {c : Channel} (fr : Half) (src : Option Nat) (d : Detail)
    (h : c.ordered tr) : (c.raise fr src d).ordered tr := by
  unfold Channel.raise
  split
  · next e =>
    refine ⟨fun x => ?_, gather_nodup fr src d h.2.1, h.2.2⟩
    simp [e] at x
  · exact h

/-! ## Moved -/

/-- What an event of the blocks leaves as it was (the frame), and the orders it keeps. -/
structure Moved (s t : State) : Prop where
  frame : t = { s with
    freeCount := t.freeCount, links := t.links, spokes := t.spokes, restoreSettle := t.restoreSettle,
    takerPos := t.takerPos, engine := t.engine, groups := t.groups, capture := t.capture, quals := t.quals,
    channels := t.channels, store := t.store, lane := { s.lane with assembly := t.lane.assembly }, due := t.due }
  engine : EngineMoves s.engine t.engine
  channels : ∀ c : ChannelId, s.channels[c].ordered s.tracking → t.channels[c].ordered s.tracking
  locked : t.store.locked = s.store.locked
  assembly : t.lane.assembly = s.lane.assembly ∨ t.lane.assembly = none

theorem Moved.refl (s : State) : Moved s s := ⟨rfl, .refl _, fun _ h => h, rfl, .inl rfl⟩

theorem Moved.tracking {s t : State} (h : Moved s t) : t.tracking = s.tracking := by rw [h.frame]
theorem Moved.slots {s t : State} (h : Moved s t) : t.slots = s.slots := by rw [h.frame]
theorem Moved.pointer {s t : State} (h : Moved s t) : t.pointer = s.pointer := by rw [h.frame]
theorem Moved.staging {s t : State} (h : Moved s t) : t.staging = s.staging := by rw [h.frame]
theorem Moved.feeds {s t : State} (h : Moved s t) : t.feeds = s.feeds := by rw [h.frame]
theorem Moved.fabric {s t : State} (h : Moved s t) : t.fabric = s.fabric := by rw [h.frame]
theorem Moved.meters {s t : State} (h : Moved s t) : t.meters = s.meters := by rw [h.frame]
theorem Moved.settings {s t : State} (h : Moved s t) : t.settings = s.settings := by rw [h.frame]
theorem Moved.handed {s t : State} (h : Moved s t) : t.handed = s.handed := by rw [h.frame]
theorem Moved.frameNumber {s t : State} (h : Moved s t) : t.frame = s.frame := by rw [h.frame]
theorem Moved.reference {s t : State} (h : Moved s t) : t.reference = s.reference := by rw [h.frame]
theorem Moved.markerSkipped {s t : State} (h : Moved s t) : t.markerSkipped = s.markerSkipped := by rw [h.frame]
theorem Moved.ports {s t : State} (h : Moved s t) : t.ports = s.ports := by rw [h.frame]
theorem Moved.mgmtPort {s t : State} (h : Moved s t) : t.mgmtPort = s.mgmtPort := by rw [h.frame]
theorem Moved.pollPeriod {s t : State} (h : Moved s t) : t.pollPeriod = s.pollPeriod := by rw [h.frame]
theorem Moved.pending {s t : State} (h : Moved s t) : t.pending = s.pending := by rw [h.frame]
theorem Moved.arriving {s t : State} (h : Moved s t) : t.arriving = s.arriving := by rw [h.frame]
theorem Moved.lane {s t : State} (h : Moved s t) : t.lane = { s.lane with assembly := t.lane.assembly } := by
  conv => lhs; rw [h.frame]

theorem Moved.trans {s t u : State} (h : Moved s t) (k : Moved t u) : Moved s u := by
  refine ⟨?_, h.engine.trans k.engine, fun c hc => ?_, k.locked.trans h.locked, ?_⟩
  · rcases h with ⟨hf, -, -, -, -⟩
    rcases k with ⟨kf, -, -, -, -⟩
    rw [hf] at kf
    exact kf
  · have := k.channels c (by rw [h.tracking]; exact h.channels c hc)
    rwa [h.tracking] at this
  · rcases k.assembly with e | e
    · rw [e]; exact h.assembly
    · exact .inr e

/-- A raise. -/
theorem raise_moved (s : State) (ch : ChannelId) (src : Option Nat) (d : Detail) : Moved s (s.raise ch src d) := by
  refine ⟨rfl, .refl _, fun c hc => ?_, rfl, .inl rfl⟩
  simp only [raise_channels, update_get]
  split
  · next e => subst e; exact Channel.raise_ordered _ _ _ hc
  · exact hc

/-- A change of the records alone that no order depends on. -/
theorem mapSpoke_moved (s : State) (i : SpokeId) (f : SpokeRec → SpokeRec) : Moved s (s.mapSpoke i f) :=
  ⟨rfl, .refl _, fun _ h => h, rfl, .inl rfl⟩

theorem mapLink_moved (s : State) (i : SpokeId) (f : Link → Link) : Moved s (s.mapLink i f) :=
  ⟨rfl, .refl _, fun _ h => h, rfl, .inl rfl⟩

theorem setQual_moved (s : State) (i : SpokeId) (k : FaultKind) (q : QualRec) : Moved s (s.setQual i k q) :=
  ⟨rfl, .refl _, fun _ h => h, rfl, .inl rfl⟩

theorem mapGroup_moved (s : State) (g : GroupId) (f : Group → Group) : Moved s (s.mapGroup g f) :=
  ⟨rfl, .refl _, fun _ h => h, rfl, .inl rfl⟩

theorem mapCapture_moved (s : State) (f : Capture → Capture) : Moved s (s.mapCapture f) :=
  ⟨rfl, .refl _, fun _ h => h, rfl, .inl rfl⟩

theorem due_moved (s : State) (d : Due) : Moved s { s with due := d } := ⟨rfl, .refl _, fun _ h => h, rfl, .inl rfl⟩

/-- A change of the engine that keeps its order and its items together and binds no slot anew. -/
theorem engine_moved (s : State) {e : Engine} (h : EngineMoves s.engine e) : Moved s { s with engine := e } :=
  ⟨rfl, h, fun _ h => h, rfl, .inl rfl⟩

/-! ## The engine's operations -/

theorem fold_holds (e : Engine) (k : SlotId) (h : e.fold.holds k = true) : e.holds k = true := by
  simp [Engine.fold, Engine.holds] at h ⊢
  exact Or.inr h

theorem idle_moves (e : Engine) : EngineMoves e { e with state := .idle, current := none } :=
  ⟨rfl, fun _ h => h, fun c => ⟨c.1, fun _ => rfl, fun h => by simp at h, fun h => by simp at h⟩⟩

theorem fold_moves (e : Engine) (hi : e.state = .idle) : EngineMoves e e.fold :=
  ⟨rfl, fold_holds e, fun c => ⟨c.1, c.2.1, fun h => by simp [Engine.fold, hi] at h, fun h => by simp [Engine.fold, hi] at h⟩⟩

theorem endCutover_moved (s : State) (halted : Bool) : Moved s (s.endCutover halted) := by
  unfold State.endCutover
  refine (engine_moved s ?_).trans (raise_moved _ _ _ _)
  split
  · exact (idle_moves s.engine).trans (fold_moves _ rfl)
  · exact idle_moves s.engine

/-- A step marked complete in STEPPING. -/
theorem mark_moves (e : Engine) (f : CurrentStep → CurrentStep) (hs : e.state = .stepping) :
    EngineMoves e { e with current := e.current.map f } :=
  ⟨rfl, fun _ h => h, fun c => ⟨c.1, fun h => by simp [hs] at h, fun h => by simp [hs] at h, c.2.2.2⟩⟩

/-- The end of a cutover on an engine whose current step has been marked. -/
theorem endCutover_marked_moved (s : State) (c : Option CurrentStep) (halted : Bool) :
    Moved s ({ s with engine := { s.engine with current := c } }.endCutover halted) := by
  unfold State.endCutover
  refine Moved.trans ?_ (raise_moved _ _ _ _)
  refine ⟨rfl, ?_, fun _ h => h, rfl, .inl rfl⟩
  dsimp only
  split
  · exact (idle_moves s.engine).trans (fold_moves _ rfl)
  · exact idle_moves s.engine

theorem completeStep_moved (s : State) : Moved s s.completeStep := by
  unfold State.completeStep
  split
  · exact .refl s
  · next h =>
    dsimp only
    split
    · exact endCutover_marked_moved _ _ _
    · exact engine_moved s (mark_moves _ _ h)
  · exact endCutover_marked_moved _ _ _

theorem tellEngine_moved (s : State) (i : SpokeId) : Moved s (s.tellEngine i) := by
  unfold State.tellEngine
  split
  · split
    · exact completeStep_moved s
    · exact .refl s
  · exact .refl s

/-! ## The Supervisor's operations -/

theorem departLive_moved (s : State) (i : SpokeId) : Moved s (s.departLive i) := by
  unfold State.departLive
  refine Moved.trans ?_ (tellEngine_moved _ i)
  exact ⟨rfl, .refl _, fun _ h => h, rfl, .inl rfl⟩

theorem moveSpoke_moved (s : State) (i : SpokeId) (f : SpokeRec → SpokeRec) : Moved s (s.moveSpoke i f) := by
  unfold State.moveSpoke
  dsimp only
  split
  · exact (mapSpoke_moved s i _).trans (departLive_moved _ i)
  · exact mapSpoke_moved s i _

theorem isolate_moved (s : State) (i : SpokeId) (r : Reason) : Moved s (s.isolate i r) := by
  unfold State.isolate
  split
  · exact .refl s
  · exact (moveSpoke_moved s i _).trans (raise_moved _ _ _ _)

theorem settleStart_moved (s : State) (i : SpokeId) (n : Nat) : Moved s (s.settleStart i n) := mapSpoke_moved s i _

theorem classCheck_moved (s : State) (i : SpokeId) : Moved s (s.classCheck i) := by
  unfold State.classCheck
  split
  · split
    · exact .refl s
    · split
      · exact .refl s
      · exact isolate_moved s i _
  · exact .refl s

theorem enterLive_moved (s : State) (i : SpokeId) : Moved s (s.enterLive i) :=
  ((mapSpoke_moved s i _).trans (settleStart_moved _ i _)).trans (classCheck_moved _ i)

theorem enterTraining_moved (s : State) (i : SpokeId) : Moved s (s.enterTraining i) :=
  ((mapSpoke_moved s i _).trans (mapLink_moved _ i _)).trans (due_moved _ _)

theorem endTraining_moved (s : State) (i : SpokeId) : Moved s (s.endTraining i) :=
  ((mapSpoke_moved s i _).trans (mapLink_moved _ i _)).trans (due_moved _ _)

/-! ## The Fault Qualifier's operations -/

theorem raiseDuration_moved (s : State) (i : SpokeId) (k : FaultKind) (m : Nat) (c : Bool) :
    Moved s (s.raiseDuration i k m c) := raise_moved s _ _ _

theorem qualify_moved (s : State) (i : SpokeId) (k : FaultKind) (d : Detail) : Moved s (s.qualify i k d) := by
  unfold State.qualify
  dsimp only
  split
  · exact (raise_moved s _ _ _).trans (isolate_moved _ i _)
  · exact raise_moved s _ _ _

theorem frameErrors_moved (s : State) (i : SpokeId) : Moved s (s.frameErrors i) := by
  unfold State.frameErrors
  dsimp only
  split
  · exact .refl s
  · split
    · exact qualify_moved s i _ _
    · split
      · split
        · exact (setQual_moved s i _ _).trans (qualify_moved _ i _ _)
        · exact setQual_moved s i _ _
      · split
        · exact (setQual_moved s i _ _).trans (qualify_moved _ i _ _)
        · exact setQual_moved s i _ _
      · exact .refl s
      · exact .refl s
    · exact .refl s
    · exact .refl s

theorem frameErrorsBoundary_moved (s : State) (i : SpokeId) : Moved s (s.frameErrorsBoundary i) := by
  unfold State.frameErrorsBoundary
  dsimp only
  split
  all_goals first | exact setQual_moved s i _ _ | exact .refl s

theorem evaluateCondition_moved (s : State) (i : SpokeId) (k : FaultKind) : Moved s (s.evaluateCondition i k) := by
  unfold State.evaluateCondition
  dsimp only
  have h (m : Option Nat) (tr : Bool) (t : State) :
      Moved t (match m with | some m => t.raiseDuration i k m tr | none => t) := by
    split
    · exact raiseDuration_moved t i k _ _
    · exact .refl t
  split
  · exact ((setQual_moved s i k _).trans (h _ _ _)).trans (qualify_moved _ i k _)
  · exact (setQual_moved s i k _).trans (h _ _ _)

theorem evaluate_moved (s : State) (i : SpokeId) (k : FaultKind) : Moved s (s.evaluate i k) := by
  unfold State.evaluate
  split
  · exact .refl s
  · split
    · exact frameErrorsBoundary_moved s i
    all_goals exact evaluateCondition_moved s i _

theorem darkenKind_moved (s : State) (i : SpokeId) (k : FaultKind) : Moved s (s.darkenKind i k) := by
  unfold State.darkenKind
  dsimp only
  split
  · exact (raiseDuration_moved s i k _ _).trans (setQual_moved _ i k _)
  · exact setQual_moved s i k _

/-- Moved holds of a fold of operations of which it holds. -/
theorem foldl_moved {α : Type} (f : State → α → State) (h : ∀ s a, Moved s (f s a)) (l : List α) (s : State) :
    Moved s (l.foldl f s) := by
  induction l generalizing s with
  | nil => exact .refl s
  | cons a l ih => exact (h s a).trans (ih _)

theorem evaluateTurn_moved (s : State) (i : SpokeId) : Moved s (s.evaluateTurn i) := by
  unfold State.evaluateTurn
  split
  · exact (due_moved s _).trans (foldl_moved _ (fun t k => evaluate_moved t i k) _ _)
  · exact .refl s

theorem darkenQuals_moved (s : State) (i : SpokeId) : Moved s (s.darkenQuals i) :=
  (foldl_moved _ (fun s k => darkenKind_moved s i k) allKinds s).trans (due_moved _ _)

/-! ## Links and reports -/

theorem enterDark_moved (s : State) (i : SpokeId) : Moved s (s.enterDark i) :=
  (((darkenQuals_moved s i).trans (moveSpoke_moved _ i _)).trans (mapLink_moved _ i _)).trans (due_moved _ _)

theorem linkLock_moved (s : State) (i : SpokeId) : Moved s (s.linkLock i) := by
  unfold State.linkLock
  split
  · exact (mapLink_moved s i _).trans (enterTraining_moved _ i)
  · exact .refl s

theorem linkLoss_moved (s : State) (i : SpokeId) : Moved s (s.linkLoss i) := by
  unfold State.linkLoss
  split
  · exact .refl s
  · exact ((enterDark_moved s i).trans (mapLink_moved _ i _)).trans (raise_moved _ _ _ _)

theorem trainingLimit_moved (s : State) (i : SpokeId) : Moved s (s.trainingLimit i) :=
  ((endTraining_moved s i).trans (isolate_moved _ i _)).trans (mapSpoke_moved _ i _)

theorem trainRaise_moved (s : State) (i : SpokeId) : Moved s (s.trainRaise i) := by
  unfold State.trainRaise
  dsimp only
  split
  · exact .refl s
  · split
    · exact trainingLimit_moved s i
    · split
      · exact (mapSpoke_moved s i _).trans (mapLink_moved _ i _)
      · exact mapSpoke_moved s i _

theorem trainTurn_moved (s : State) (i : SpokeId) : Moved s (s.trainTurn i) := by
  unfold State.trainTurn
  split
  · exact (due_moved s _).trans (trainRaise_moved _ i)
  · exact .refl s

theorem completeReport_moved (s : State) (i : SpokeId) (rep : Report) : Moved s (s.completeReport i rep) := by
  unfold State.completeReport
  dsimp only
  split
  · exact mapSpoke_moved s i _
  · split
    · exact (mapSpoke_moved s i _).trans (mapSpoke_moved _ i _)
    · exact ((mapSpoke_moved s i _).trans (mapSpoke_moved _ i _)).trans (raise_moved _ _ _ _)

theorem reportByte_moved (s : State) (i : SpokeId) (b : Byte) : Moved s (s.reportByte i b) := by
  unfold State.reportByte
  split
  · exact .refl s
  · split
    · split
      · exact mapSpoke_moved s i _
      · exact .refl s
    · split
      · exact mapSpoke_moved s i _
      · exact completeReport_moved s i _
    · dsimp only
      split
      · exact completeReport_moved s i _
      · exact mapSpoke_moved s i _

theorem helloInTraining_moved (s : State) (i : SpokeId) (c : NodeClass) : Moved s (s.helloInTraining i c) := by
  unfold State.helloInTraining
  refine (endTraining_moved s i).trans ?_
  dsimp only
  split
  · exact (isolate_moved _ i _).trans (mapSpoke_moved _ i _)
  · split
    · exact (mapSpoke_moved _ i _).trans (mapSpoke_moved _ i _)
    · exact (mapSpoke_moved _ i _).trans (mapSpoke_moved _ i _)
    · exact ((mapSpoke_moved _ i _).trans (raise_moved _ _ _ _)).trans (enterLive_moved _ i)

theorem helloTaken_moved (s : State) (i : SpokeId) (c : NodeClass) : Moved s (s.helloTaken i c) := by
  unfold State.helloTaken
  split
  · exact (mapSpoke_moved _ i _).trans (isolate_moved _ i _)
  · split
    · split
      · exact (settleStart_moved _ i _).trans (mapSpoke_moved _ i _)
      · exact .refl s
    · exact (mapSpoke_moved _ i _).trans (classCheck_moved _ i)

theorem actOnReport_moved (s : State) (i : SpokeId) (rep : Report) : Moved s (s.actOnReport i rep) := by
  unfold State.actOnReport
  split
  · exact frameErrors_moved s i
  · split
    · exact helloInTraining_moved s i _
    · exact helloTaken_moved s i _
    · exact helloTaken_moved s i _
    · exact helloTaken_moved s i _
    · exact .refl s
  all_goals exact mapSpoke_moved s i _

theorem takeFrom_moved (s : State) (found : Option SpokeId) : Moved s (s.takeFrom found) := by
  unfold State.takeFrom
  split
  · exact .refl s
  · split
    · exact due_moved s _
    · dsimp only
      split
      · exact ⟨rfl, .refl _, fun _ h => h, rfl, .inl rfl⟩
      · refine Moved.trans ?_ (actOnReport_moved _ _ _)
        refine Moved.trans ?_ (mapSpoke_moved _ _ _)
        exact ⟨rfl, .refl _, fun _ h => h, rfl, .inl rfl⟩

theorem reportTurn_moved (s : State) : Moved s s.reportTurn := takeFrom_moved s _

theorem lateReports_moved (s : State) : Moved s s.lateReports :=
  (((takeFrom_moved s _).trans (takeFrom_moved _ _)).trans ((takeFrom_moved _ _).trans (takeFrom_moved _ _))).trans
    (due_moved _ _)

theorem settleTurn_moved (s : State) (i : SpokeId) : Moved s (s.settleTurn i) := by
  unfold State.settleTurn
  split
  · dsimp only
    split
    · exact (due_moved s _).trans (tellEngine_moved _ i)
    · exact due_moved s _
  · exact .refl s

theorem pollTurn_moved (s : State) (i : SpokeId) : Moved s (s.pollTurn i) := by
  unfold State.pollTurn
  split
  · exact ((due_moved s _).trans (mapSpoke_moved _ i _)).trans (mapLink_moved _ i _)
  · exact .refl s

/-! ## Cutovers, groups, captures, the store -/

theorem startCutover_moved (s : State) (p : Params) : Moved s (s.startCutover p) := by
  refine ⟨rfl, ⟨rfl, fun _ h => h, fun c => ⟨c.1, ?_, ?_, fun _ => rfl⟩⟩, fun _ h => h, rfl, .inl rfl⟩
  · intro h; cases h
  · intro h; cases h

theorem relieve_moved (s : State) (g : GroupId) (r : Relief) : Moved s (s.relieve g r).2 := by
  unfold State.relieve
  split
  · exact .refl s
  · split
    · exact .refl s
    · split
      · exact startCutover_moved s _
      · exact .refl s

theorem moveAcross_moved (s : State) (i : SpokeId) (up : Bool) (l : Fin 33) (p : Params)
    (hs : s.engine.state = .stepping) : Moved s (s.moveAcross i up l p) := by
  unfold State.moveAcross
  have h : Moved s (s.mapEngine fun e => { e with line := l, current := some ⟨i, up, false, 0⟩ }) :=
    engine_moved s ⟨rfl, fun _ h => h, fun c => ⟨c.1, fun x => by simp [hs] at x, fun x => by simp [hs] at x, c.2.2.2⟩⟩
  dsimp only
  split
  · have k := (h.trans (settleStart_moved _ i p.settle)).trans (classCheck_moved _ i)
    split
    · exact k.trans (tellEngine_moved _ i)
    · exact k
  · exact h.trans (tellEngine_moved _ i)

theorem takeStep_moved (s : State) (hs : s.engine.state = .stepping) : Moved s s.takeStep := by
  unfold State.takeStep
  split
  · exact .refl s
  · split
    · exact moveAcross_moved s _ _ _ _ hs
    · split
      · exact moveAcross_moved s _ _ _ _ hs
      · exact .refl s

theorem stepTurn_moved (s : State) : Moved s s.stepTurn := by
  unfold State.stepTurn
  split
  · dsimp only
    split
    · next h => exact (due_moved s _).trans (takeStep_moved _ h)
    · exact due_moved s _
  · exact .refl s

theorem crowd_moved (s : State) (g : GroupId) : Moved s (s.crowd g) := by
  unfold State.crowd
  dsimp only
  split
  · exact (mapGroup_moved s g _).trans (raise_moved _ _ _ _)
  · exact (((mapGroup_moved s g _).trans (relieve_moved _ g _)).trans (mapGroup_moved _ g _)).trans (raise_moved _ _ _ _)

theorem calm_moved (s : State) (g : GroupId) : Moved s (s.calm g) := (mapGroup_moved s g _).trans (raise_moved _ _ _ _)

theorem clearGroupTurn_moved (s : State) (g : GroupId) : Moved s (s.clearGroupTurn g) := due_moved s _

theorem crowdTurn_moved (s : State) (g : GroupId) : Moved s (s.crowdTurn g) := by
  unfold State.crowdTurn
  split
  · exact (clearGroupTurn_moved s g).trans (crowd_moved _ g)
  · exact .refl s

theorem calmTurn_moved (s : State) (g : GroupId) : Moved s (s.calmTurn g) := by
  unfold State.calmTurn
  split
  · exact (clearGroupTurn_moved s g).trans (calm_moved _ g)
  · exact .refl s

theorem groupTurn_moved (s : State) (g : GroupId) : Moved s (s.groupTurn g) := by
  unfold State.groupTurn
  split
  · exact crowdTurn_moved s g
  · exact calmTurn_moved s g

theorem beginCollection_moved (s : State) (t : Target) : Moved s (s.beginCollection t) := by
  unfold State.beginCollection
  exact mapCapture_moved s _

theorem decideContinuous_moved (s : State) : Moved s s.decideContinuous := by
  unfold State.decideContinuous
  split
  · split
    · exact .refl s
    · split
      · exact mapCapture_moved s _
      · exact beginCollection_moved s _
  · exact .refl s

theorem decideCollection_moved (s : State) : Moved s s.decideCollection := by
  unfold State.decideCollection
  split
  · split
    · exact (mapCapture_moved _ _).trans (decideContinuous_moved _)
    · exact beginCollection_moved _ _
  · exact decideContinuous_moved _

theorem captureEvent_moved (s : State) : Moved s s.captureEvent := by
  unfold State.captureEvent
  exact ((due_moved s _).trans (mapCapture_moved _ _)).trans (decideCollection_moved _)

theorem captureEndTurn_moved (s : State) : Moved s s.captureEndTurn := by
  unfold State.captureEndTurn
  split
  · exact captureEvent_moved s
  · exact .refl s

theorem captureStartTurn_moved (s : State) : Moved s s.captureStartTurn := by
  unfold State.captureStartTurn
  split
  · exact captureEvent_moved s
  · exact .refl s

theorem mapStore_moved (s : State) (f : Store → Store) (h : (f s.store).locked = s.store.locked) :
    Moved s (s.mapStore f) := ⟨rfl, .refl _, fun _ h => h, h, .inl rfl⟩

theorem readEnd_moved (s : State) : Moved s s.readEnd := by
  unfold State.readEnd
  split
  · exact mapStore_moved s _ rfl
  · exact .refl s

theorem eraseEnd_moved (s : State) (b : Bool) : Moved s (s.eraseEnd b) := by
  unfold State.eraseEnd
  split
  · split
    · exact (mapStore_moved s _ rfl).trans (raise_moved _ _ _ _)
    · exact .refl s
  all_goals exact .refl s

theorem writeEnd_moved (s : State) (b : Bool) : Moved s (s.writeEnd b) := by
  unfold State.writeEnd
  split
  · split
    · exact (mapStore_moved s _ rfl).trans (raise_moved _ _ _ _)
    · exact .refl s
  all_goals exact .refl s

theorem lockEnd_moved (s : State) : Moved s s.lockEnd := by
  unfold State.lockEnd
  split
  · exact (mapStore_moved s _ rfl).trans (raise_moved _ _ _ _)
  · exact .refl s

theorem storeTurn_moved (s : State) (b : Bool) : Moved s (s.storeTurn b) := by
  unfold State.storeTurn
  split
  · exact .refl s
  · exact readEnd_moved s
  · exact eraseEnd_moved s b
  · exact writeEnd_moved s b
  · exact lockEnd_moved s

theorem abandonTurn_moved (s : State) : Moved s s.abandonTurn := by
  unfold State.abandonTurn
  split
  · exact ⟨rfl, .refl _, fun _ h => h, rfl, .inr rfl⟩
  · exact .refl s

/-! ## Turns of a boundary -/

theorem takeTurn_moved (s : State) (t : Turn) : Moved s (s.takeTurn t) := by
  cases t
  · exact reportTurn_moved s
  · exact trainTurn_moved s _
  · exact settleTurn_moved s _
  · exact pollTurn_moved s _
  · exact groupTurn_moved s _
  · exact stepTurn_moved s
  · exact evaluateTurn_moved s _
  · exact captureEndTurn_moved s
  · exact captureStartTurn_moved s
  · exact storeTurn_moved s _
  · exact abandonTurn_moved s

theorem takeTurns_moved (s : State) (ts : List Turn) : Moved s (s.takeTurns ts) :=
  foldl_moved _ takeTurn_moved ts s

theorem freeStoreEnd_moved (s : State) : Moved s s.freeStoreEnd := by
  have h : Moved s { s with freeCount := s.freeCount + 1 } := ⟨rfl, .refl _, fun _ h => h, rfl, .inl rfl⟩
  unfold State.freeStoreEnd
  split
  · split
    · exact h.trans (storeTurn_moved _ _)
    · exact h.trans (storeTurn_moved _ _)
    all_goals exact storeTurn_moved s _
  · exact .refl s

theorem closeBoundary_moved (s : State) : Moved s s.closeBoundary := by
  unfold State.closeBoundary
  split
  · refine Moved.trans ?_ (due_moved _ _)
    refine Moved.trans ?_ (abandonTurn_moved _)
    refine Moved.trans ?_ (freeStoreEnd_moved _)
    refine Moved.trans ?_ (takeTurns_moved _ _)
    refine Moved.trans ?_ (takeTurns_moved _ _)
    exact ((lateReports_moved s).trans (takeTurns_moved _ _)).trans (takeTurns_moved _ _)
  · exact .refl s

theorem evaluateRest_moved (s : State) : Moved s s.evaluateRest := by
  apply foldl_moved
  intro t e
  split
  · exact .refl t
  · exact evaluateTurn_moved t _

/-- A damaged sample group. -/
theorem groupDamaged_moved (s : State) (i : SpokeId) (n : Nat) : Moved s (s.groupDamaged i n) := by
  unfold State.groupDamaged
  split
  · exact (mapLink_moved s i _).trans (frameErrors_moved _ i)
  · exact .refl s

end Sys2Proof.Machine
end

