-- ==== Sys2Proof/Laws/PerInstr.lean ====
section
/-! SUPPORT. What holds of every command as it is written: read by its code and its length, its body gives the command back
with every operand (R157, R169). One lemma for each constructor. -/

namespace Sys2Proof.Laws.Sorted

set_option Elab.async false

/-- A well-formed management command is sorted as itself from its tag, code and body, and so is a mark from the body its row
brings (log 8). A step that no message asks for has no code. -/
def Statement (i : Sys2Proof.Instr) : Prop :=
  i.wf = true → i.header.isSome = true → Sys2Proof.commandOf i.tag i.code i.body = i

/-- Four bytes of a word, joined again. -/
theorem word_bytes (w : BitVec 32) :
    (w.extractLsb' 24 8 ++ w.extractLsb' 16 8 ++ w.extractLsb' 8 8 ++ w.extractLsb' 0 8 : BitVec 32) = w := by
  apply BitVec.eq_of_getLsbD_eq
  intro i hi
  simp only [BitVec.getLsbD_append, BitVec.getLsbD_extractLsb']
  by_cases h1 : i < 8
  · simp [h1]
  · by_cases h2 : i - 8 < 8
    · have e : 8 + (i - 8) = i := by omega
      simp [h1, h2, e]
    · by_cases h3 : i - 8 - 8 < 8
      · have e : 16 + (i - 8 - 8) = i := by omega
        simp [h1, h2, h3, e]
      · have h4 : i - 8 - 8 - 8 < 8 := by omega
        have e : 24 + (i - 8 - 8 - 8) = i := by omega
        simp [h1, h2, h3, h4, e]

/-- Three bytes of a field, joined again. -/
theorem tri_bytes (w : BitVec 24) :
    (w.extractLsb' 16 8 ++ w.extractLsb' 8 8 ++ w.extractLsb' 0 8 : BitVec 24) = w := by
  apply BitVec.eq_of_getLsbD_eq
  intro i hi
  simp only [BitVec.getLsbD_append, BitVec.getLsbD_extractLsb']
  by_cases h1 : i < 8
  · simp [h1]
  · by_cases h2 : i - 8 < 8
    · have e : 8 + (i - 8) = i := by omega
      simp [h1, h2, e]
    · have h3 : i - 8 - 8 < 8 := by omega
      have e : 16 + (i - 8 - 8) = i := by omega
      simp [h1, h2, h3, e]

/-- Two bytes of a field, joined again. -/
theorem half_bytes (w : BitVec 16) : (w.extractLsb' 8 8 ++ w.extractLsb' 0 8 : BitVec 16) = w := by
  apply BitVec.eq_of_getLsbD_eq
  intro i hi
  simp only [BitVec.getLsbD_append, BitVec.getLsbD_extractLsb']
  by_cases h1 : i < 8
  · simp [h1]
  · have : i - 8 < 8 := by omega
    have e : 8 + (i - 8) = i := by omega
    simp [h1, this, e]

/-- Entries of five bytes read back. -/
theorem cellEntries_bytes (es : List Sys2Proof.CellEntry) :
    Sys2Proof.cellEntries (es.flatMap Sys2Proof.CellEntry.bytes) = some es := by
  induction es with
  | nil => rfl
  | cons e es ih => simp [Sys2Proof.CellEntry.bytes, Sys2Proof.cellEntries, ih]

/-- Pairs of two bytes read back. -/
theorem expectPairs_bytes (ps : List Sys2Proof.ExpectPair) :
    Sys2Proof.expectPairs (ps.flatMap Sys2Proof.ExpectPair.bytes) = some ps := by
  induction ps with
  | nil => rfl
  | cons p ps ih => simp [Sys2Proof.ExpectPair.bytes, Sys2Proof.expectPairs, ih]

theorem powerOnReset : ∀ a0, Statement (.powerOnReset a0) := by
  intro a0
  exact fun _ h => by cases h

theorem frameBoundary : ∀ a0, Statement (.frameBoundary a0) := by
  intro a0
  exact fun _ h => by cases h

theorem timebaseRelock : ∀ a0 a1, Statement (.timebaseRelock a0 a1) := by
  intro a0 a1
  exact fun _ h => by cases h

theorem carrierPortLock : ∀ a0, Statement (.carrierPortLock a0) := by
  intro a0
  exact fun _ h => by cases h

theorem carrierPortLoss : ∀ a0, Statement (.carrierPortLoss a0) := by
  intro a0
  exact fun _ h => by cases h

theorem spokeLinkLock : ∀ a0, Statement (.spokeLinkLock a0) := by
  intro a0
  exact fun _ h => by cases h

theorem spokeLinkLoss : ∀ a0, Statement (.spokeLinkLoss a0) := by
  intro a0
  exact fun _ h => by cases h

theorem sampleGroupDamaged : ∀ a0 a1, Statement (.sampleGroupDamaged a0 a1) := by
  intro a0 a1
  exact fun _ h => by cases h

theorem nodeRequestSend : ∀ a0, Statement (.nodeRequestSend a0) := by
  intro a0
  exact fun _ h => by cases h

theorem reportComplete : ∀ a0 a1, Statement (.reportComplete a0 a1) := by
  intro a0 a1
  exact fun _ h => by cases h

theorem reportTake : Statement .reportTake := by
  exact fun _ h => by cases h

theorem helloRequestRepeat : ∀ a0, Statement (.helloRequestRepeat a0) := by
  intro a0
  exact fun _ h => by cases h

theorem trainingLimit : ∀ a0, Statement (.trainingLimit a0) := by
  intro a0
  exact fun _ h => by cases h

theorem settleEnd : ∀ a0, Statement (.settleEnd a0) := by
  intro a0
  exact fun _ h => by cases h

theorem healthPollDue : ∀ a0, Statement (.healthPollDue a0) := by
  intro a0
  exact fun _ h => by cases h

theorem crowdedEntry : ∀ a0, Statement (.crowdedEntry a0) := by
  intro a0
  exact fun _ h => by cases h

theorem groupCalm : ∀ a0, Statement (.groupCalm a0) := by
  intro a0
  exact fun _ h => by cases h

theorem cutoverStep : Statement .cutoverStep := by
  exact fun _ h => by cases h

theorem persistQualify : ∀ a0 a1, Statement (.persistQualify a0 a1) := by
  intro a0 a1
  exact fun _ h => by cases h

theorem qualifierWindowEnd : ∀ a0 a1, Statement (.qualifierWindowEnd a0 a1) := by
  intro a0 a1
  exact fun _ h => by cases h

theorem captureCollectionEnd : Statement .captureCollectionEnd := by
  exact fun _ h => by cases h

theorem captureCollectionStart : Statement .captureCollectionStart := by
  exact fun _ h => by cases h

theorem captureNoticeEnqueue : Statement .captureNoticeEnqueue := by
  exact fun _ h => by cases h

theorem alarmPresentation : Statement .alarmPresentation := by
  exact fun _ h => by cases h

theorem startupReadEnd : Statement .startupReadEnd := by
  exact fun _ h => by cases h

theorem storeEraseEnd : ∀ a0, Statement (.storeEraseEnd a0) := by
  intro a0
  exact fun _ h => by cases h

theorem storeWriteEnd : ∀ a0, Statement (.storeWriteEnd a0) := by
  intro a0
  exact fun _ h => by cases h

theorem storeLockEnd : Statement .storeLockEnd := by
  exact fun _ h => by cases h

theorem commandComplete : ∀ a0, Statement (.commandComplete a0) := by
  intro a0
  exact fun _ h => by cases h

theorem assemblyAbandon : Statement .assemblyAbandon := by
  exact fun _ h => by cases h

theorem commandUnknown : ∀ a0 a1, Statement (.commandUnknown a0 a1) := by
  intro tag code w _
  obtain ⟨⟨n, hn⟩⟩ := code
  interval_cases n <;> first | rfl | exact Bool.noConfusion (show false = true from w)

theorem commandMalformed : ∀ a0 a1, Statement (.commandMalformed a0 a1) := by
  intro tag code w _
  obtain ⟨⟨n, hn⟩⟩ := code
  interval_cases n <;> first | rfl | exact Bool.noConfusion (show false = true from w)

theorem commandResponseTaken : Statement .commandResponseTaken := by
  exact fun _ h => by cases h

theorem resyncResponseTaken : Statement .resyncResponseTaken := by
  exact fun _ h => by cases h

theorem messageLeaves : Statement .messageLeaves := by
  exact fun _ h => by cases h

theorem hubResetEffect : Statement .hubResetEffect := by
  exact fun _ h => by cases h

theorem feedSet : ∀ a0 a1 a2 a3 a4 a5, Statement (.feedSet a0 a1 a2 a3 a4 a5) := by
  intro a0 a1 a2 a3 a4 a5
  exact fun _ _ => rfl

theorem feedRead : ∀ a0 a1, Statement (.feedRead a0 a1) := by
  intro a0 a1
  exact fun _ _ => rfl

theorem spokeIsolate : ∀ a0 a1, Statement (.spokeIsolate a0 a1) := by
  intro a0 a1
  exact fun _ _ => rfl

theorem spokeRestore : ∀ a0 a1, Statement (.spokeRestore a0 a1) := by
  intro a0 a1
  exact fun _ _ => rfl

theorem spokeQuiet : ∀ a0 a1, Statement (.spokeQuiet a0 a1) := by
  intro a0 a1
  exact fun _ _ => rfl

theorem spokeWake : ∀ a0 a1, Statement (.spokeWake a0 a1) := by
  intro a0 a1
  exact fun _ _ => rfl

theorem spokeRetrain : ∀ a0 a1, Statement (.spokeRetrain a0 a1) := by
  intro a0 a1
  exact fun _ _ => rfl

theorem spokeRearm : ∀ a0 a1, Statement (.spokeRearm a0 a1) := by
  intro a0 a1
  exact fun _ _ => rfl

theorem spokeRead : ∀ a0 a1, Statement (.spokeRead a0 a1) := by
  intro a0 a1
  exact fun _ _ => rfl

theorem pollSet : ∀ a0 a1, Statement (.pollSet a0 a1) := by
  intro a0 a1 _ _
  simp [Sys2Proof.commandOf, Sys2Proof.Instr.code, Sys2Proof.Instr.tag, Sys2Proof.Instr.header, Sys2Proof.Instr.body,
    Sys2Proof.read2, Sys2Proof.halfBytes, half_bytes]

theorem planOpen : ∀ a0 a1, Statement (.planOpen a0 a1) := by
  intro a0 a1
  exact fun _ _ => rfl

theorem planEdit : ∀ a0 a1, Statement (.planEdit a0 a1) := by
  intro a0 a1
  exact fun _ _ => rfl

theorem planCell : ∀ a0 a1 a2, Statement (.planCell a0 a1 a2) := by
  intro a0 a1 a2 w _
  simp only [Sys2Proof.Instr.wf, Bool.and_eq_true, decide_eq_true_eq] at w
  simp [Sys2Proof.commandOf, Sys2Proof.Instr.code, Sys2Proof.Instr.tag, Sys2Proof.Instr.header, Sys2Proof.Instr.body,
    Sys2Proof.readPlanCell, cellEntries_bytes, w.1, w.2]

theorem planExpect : ∀ a0 a1 a2, Statement (.planExpect a0 a1 a2) := by
  intro a0 a1 a2 w _
  simp only [Sys2Proof.Instr.wf, Bool.and_eq_true, decide_eq_true_eq] at w
  simp [Sys2Proof.commandOf, Sys2Proof.Instr.code, Sys2Proof.Instr.tag, Sys2Proof.Instr.header, Sys2Proof.Instr.body,
    Sys2Proof.readPlanExpect, expectPairs_bytes, w.1, w.2]

theorem planClose : ∀ a0 a1, Statement (.planClose a0 a1) := by
  intro a0 a1
  exact fun _ _ => rfl

theorem planDrop : ∀ a0 a1, Statement (.planDrop a0 a1) := by
  intro a0 a1
  exact fun _ _ => rfl

theorem planRead : ∀ a0 a1 a2, Statement (.planRead a0 a1 a2) := by
  intro a0 a1 a2
  exact fun _ _ => rfl

theorem trimPoint : ∀ a0 a1 a2 a3, Statement (.trimPoint a0 a1 a2 a3) := by
  intro a0 a1 a2 a3
  exact fun _ _ => rfl

theorem trim : ∀ a0 a1, Statement (.trim a0 a1) := by
  intro a0 a1 w _
  simp only [Sys2Proof.Instr.wf, Bool.and_eq_true, decide_eq_true_eq] at w
  simp [Sys2Proof.commandOf, Sys2Proof.Instr.code, Sys2Proof.Instr.tag, Sys2Proof.Instr.header, Sys2Proof.Instr.body,
    Sys2Proof.readList, w.1, w.2]

theorem bankBind : ∀ a0 a1 a2, Statement (.bankBind a0 a1 a2) := by
  intro a0 a1 a2
  exact fun _ _ => rfl

theorem bankRelease : ∀ a0 a1, Statement (.bankRelease a0 a1) := by
  intro a0 a1
  exact fun _ _ => rfl

theorem sweepOrder : ∀ a0 a1, Statement (.sweepOrder a0 a1) := by
  intro a0 a1 w _
  simp only [Sys2Proof.Instr.wf, beq_iff_eq] at w
  simp [Sys2Proof.commandOf, Sys2Proof.Instr.code, Sys2Proof.Instr.tag, Sys2Proof.Instr.header, Sys2Proof.Instr.body,
    Sys2Proof.readList, w]

theorem cutover : ∀ a0 a1 a2 a3 a4, Statement (.cutover a0 a1 a2 a3 a4) := by
  intro a0 a1 a2 a3 a4
  exact fun _ _ => rfl

theorem halt : ∀ a0, Statement (.halt a0) := by
  intro a0
  exact fun _ _ => rfl

theorem fold : ∀ a0, Statement (.fold a0) := by
  intro a0
  exact fun _ _ => rfl

theorem cutoverRead : ∀ a0, Statement (.cutoverRead a0) := by
  intro a0
  exact fun _ _ => rfl

theorem watchSet : ∀ a0 a1 a2 a3 a4 a5 a6 a7 a8 a9, Statement (.watchSet a0 a1 a2 a3 a4 a5 a6 a7 a8 a9) := by
  intro a0 a1 a2 a3 a4 a5 a6 a7 a8 a9 _ _
  simp [Sys2Proof.commandOf, Sys2Proof.Instr.code, Sys2Proof.Instr.tag, Sys2Proof.Instr.header, Sys2Proof.Instr.body,
    Sys2Proof.readWatchSet, Sys2Proof.wordBytes, Sys2Proof.triBytes, word_bytes, tri_bytes]

theorem watchOff : ∀ a0 a1, Statement (.watchOff a0 a1) := by
  intro a0 a1
  exact fun _ _ => rfl

theorem watchRead : ∀ a0 a1, Statement (.watchRead a0 a1) := by
  intro a0 a1
  exact fun _ _ => rfl

theorem meterRead : ∀ a0 a1, Statement (.meterRead a0 a1) := by
  intro a0 a1 w _
  simp only [Sys2Proof.Instr.wf, Bool.and_eq_true, decide_eq_true_eq] at w
  simp [Sys2Proof.commandOf, Sys2Proof.Instr.code, Sys2Proof.Instr.tag, Sys2Proof.Instr.header, Sys2Proof.Instr.body,
    Sys2Proof.readList, w.1, w.2]

theorem capture : ∀ a0 a1 a2 a3 a4 a5, Statement (.capture a0 a1 a2 a3 a4 a5) := by
  intro a0 a1 a2 a3 a4 a5 _ _
  simp [Sys2Proof.commandOf, Sys2Proof.Instr.code, Sys2Proof.Instr.tag, Sys2Proof.Instr.header, Sys2Proof.Instr.body,
    Sys2Proof.readCapture, Sys2Proof.halfBytes, half_bytes]

theorem captureStop : ∀ a0, Statement (.captureStop a0) := by
  intro a0
  exact fun _ _ => rfl

theorem qualify : ∀ a0 a1 a2 a3 a4 a5 a6 a7, Statement (.qualify a0 a1 a2 a3 a4 a5 a6 a7) := by
  intro a0 a1 a2 a3 a4 a5 a6 a7 _ _
  simp [Sys2Proof.commandOf, Sys2Proof.Instr.code, Sys2Proof.Instr.tag, Sys2Proof.Instr.header, Sys2Proof.Instr.body,
    Sys2Proof.readQualify, Sys2Proof.halfBytes, half_bytes]

theorem qualifyRead : ∀ a0 a1 a2, Statement (.qualifyRead a0 a1 a2) := by
  intro a0 a1 a2
  exact fun _ _ => rfl

theorem alarmEnable : ∀ a0 a1 a2, Statement (.alarmEnable a0 a1 a2) := by
  intro a0 a1 a2 _ _
  simp [Sys2Proof.commandOf, Sys2Proof.Instr.code, Sys2Proof.Instr.tag, Sys2Proof.Instr.header, Sys2Proof.Instr.body,
    Sys2Proof.read4, Sys2Proof.halfBytes, half_bytes]

theorem alarmMask : ∀ a0 a1 a2, Statement (.alarmMask a0 a1 a2) := by
  intro a0 a1 a2 _ _
  simp [Sys2Proof.commandOf, Sys2Proof.Instr.code, Sys2Proof.Instr.tag, Sys2Proof.Instr.header, Sys2Proof.Instr.body,
    Sys2Proof.read4, Sys2Proof.halfBytes, half_bytes]

theorem alarmTrack : ∀ a0 a1, Statement (.alarmTrack a0 a1) := by
  intro a0 a1
  exact fun _ _ => rfl

theorem alarmDone : ∀ a0 a1, Statement (.alarmDone a0 a1) := by
  intro a0 a1
  exact fun _ _ => rfl

theorem alarmRead : ∀ a0 a1 a2, Statement (.alarmRead a0 a1 a2) := by
  intro a0 a1 a2
  exact fun _ _ => rfl

theorem storeRead : ∀ a0 a1, Statement (.storeRead a0 a1) := by
  intro a0 a1
  exact fun _ _ => rfl

theorem storeErase : ∀ a0 a1, Statement (.storeErase a0 a1) := by
  intro a0 a1
  exact fun _ _ => rfl

theorem storeWrite : ∀ a0 a1 a2 a3 a4 a5, Statement (.storeWrite a0 a1 a2 a3 a4 a5) := by
  intro a0 a1 a2 a3 a4 a5
  exact fun _ _ => rfl

theorem storeLock : ∀ a0, Statement (.storeLock a0) := by
  intro a0
  exact fun _ _ => rfl

theorem resync : ∀ a0, Statement (.resync a0) := by
  intro a0
  exact fun _ _ => rfl

theorem hubStatus : ∀ a0, Statement (.hubStatus a0) := by
  intro a0
  exact fun _ _ => rfl

theorem hubReset : ∀ a0, Statement (.hubReset a0) := by
  intro a0
  exact fun _ _ => rfl

theorem inboundByte : ∀ a0, Statement (.inboundByte a0) := by
  intro a0
  exact fun _ h => by cases h

theorem reportLeadByte : ∀ a0, Statement (.reportLeadByte a0) := by
  intro a0
  exact fun _ h => by cases h

end Sys2Proof.Laws.Sorted
end

