-- ==== Sys2Proof/Laws/Plans.lean ====
section
/-! SUPPORT. What admission can find: the failures of a plan as one list in the order of R63 and R66, of which admission
finds the first. -/

namespace Sys2Proof.Machine

/-! ## Feeds that plans carry, and entitlement -/

/-- An entry names a feed where one of its cells does. -/
theorem Entry.names_iff (e : Entry) (f : FeedId) :
    e.names f = true ↔ ∃ (k : CellPos) (c : Cell), e.cells[k] = some c ∧ c.feed = f := by
  unfold Entry.names
  rw [List.any_eq_true]
  constructor
  · rintro ⟨x, hx, h⟩
    rw [Vector.mem_toList_iff, Vector.mem_iff_getElem] at hx
    obtain ⟨k, hk, rfl⟩ := hx
    simp only [beq_iff_eq, Option.map_eq_some_iff] at h
    obtain ⟨c, h1, h2⟩ := h
    exact ⟨⟨k, hk⟩, c, h1, h2⟩
  · rintro ⟨k, c, h1, h2⟩
    exact ⟨e.cells[k], by rw [Vector.mem_toList_iff]; exact Vector.getElem_mem _, by rw [h1]; simp [h2]⟩

theorem Carries_iff (p : Plan) (i f) : Carries p i f ↔ p[i].names f = true := by rw [Entry.names_iff]; rfl

theorem Engine.holds_iff (s : State) (k) : s.engine.holds k = true ↔ Bound s k := by unfold Engine.holds Bound; simp

theorem Plan.fanout_pos (p : Plan) (f) : 0 < p.fanout f ↔ ∃ i, Carries p i f := by
  unfold Plan.fanout
  rw [List.length_pos_iff_exists_mem]
  constructor
  · rintro ⟨e, he⟩
    rw [List.mem_filter, Vector.mem_toList_iff, Vector.mem_iff_getElem] at he
    obtain ⟨⟨i, hi, rfl⟩, h⟩ := he
    exact ⟨⟨i, hi⟩, (Carries_iff p ⟨i, hi⟩ f).mpr h⟩
  · rintro ⟨i, hi⟩
    refine ⟨p[i], ?_⟩
    rw [List.mem_filter, Vector.mem_toList_iff]
    exact ⟨Vector.getElem_mem _, (Carries_iff p i f).mp hi⟩

theorem State.permits_iff (s : State) (f r) : s.permits f r = true ↔ Permits s f r := by
  unfold State.permits Permits portOf
  cases s.store.operator r.operator with
  | none => simp
  | some o => simp

/-! ## The failures of a plan, in order -/

/-- The failures of one check at a spoke's cells, in ascending position. -/
def cellFailures (i : SpokeId) (e : Entry) (r : FailReason) (fails : CellPos → Cell → Bool) : List Failure :=
  allPositions.filterMap fun k => match e.cells[k] with
    | some c => if fails k c then some ⟨i, some k, r⟩ else none
    | none => none

/-- The failure of one check at a spoke as a whole, where it fails. -/
def spokeFailures (i : SpokeId) (r : FailReason) (b : Bool) : List Failure := if b then [⟨i, none, r⟩] else []

theorem cellFailures_head (i e r fails) : (cellFailures i e r fails).head? = firstCell i e r fails := by
  unfold cellFailures firstCell; exact List.head?_filterMap

theorem spokeFailures_head (i r b) : (spokeFailures i r b).head? = spokeFailure i r b := by
  unfold spokeFailures spokeFailure; cases b <;> rfl

/-- The checks of a spoke in their order (R63), each with its failures. -/
def checkLists (s : State) (full : Bool) (i : SpokeId) (e : Entry) : List (FailReason × List Failure) :=
  let cls := e.expect.bind s.store.nodeClass
  [(.feedUnused, cellFailures i e .feedUnused fun _ c => s.feeds[c.feed].state == .unused),
   (.feedTwice, if full then cellFailures i e .feedTwice fun k c => e.namedBelow k c.feed else []),
   (.noClass, spokeFailures i .noClass (full && decide (0 < e.count) && e.expect.isNone)),
   (.classAbsent, spokeFailures i .classAbsent (e.expect.isSome && cls.isNone)),
   (.capacity, match cls with | some r => spokeFailures i .capacity (decide (r.capacity < e.count)) | none => []),
   (.band, match cls with
     | some r => cellFailures i e .band (fun _ c => !r.bands.getLsbD s.feeds[c.feed].band)
     | none => []),
   (.operator, cellFailures i e .operator fun _ c => !s.permits c.feed s.feeds[c.feed]),
   (.level, match cls with
     | some r => cellFailures i e .level (fun _ c => s.levelExceeds r c.feed c.down)
     | none => [])]

/-- The checks of a spoke find the first of its failures. -/
theorem spokeChecks_head (s : State) (full i e) :
    s.spokeChecks full i e = ((checkLists s full i e).flatMap (·.2)).head? := by
  unfold State.spokeChecks checkLists State.classChecks
  simp only [List.flatMap_cons, List.flatMap_nil, List.append_nil, List.head?_append, cellFailures_head,
    spokeFailures_head]
  cases full <;> cases e.expect.bind s.store.nodeClass <;>
    simp [cellFailures_head, spokeFailures_head, Option.or_assoc]

/-- The failures of FANOUT, by ascending feed (R66). -/
def fanoutFailures (s : State) (p : Plan) : List Failure := allFeeds.filterMap fun f =>
    match s.store.operator s.feeds[f].operator with
    | some o => ((p.carriers f)[o.fanout]?).map fun i => ⟨i, p[i].posOf f, .fanout⟩
    | none => none

/-- Every failure of a plan, in the order of the walk. -/
def failures (s : State) (full : Bool) (p : Plan) : List Failure :=
  (allSpokes.flatMap fun i => (checkLists s full i p[i]).flatMap (·.2)) ++ fanoutFailures s p

/-- Admission finds the first of a plan's failures. -/
theorem admission_head (s : State) (full p) : s.admission full p = (failures s full p).head? := by
  unfold State.admission failures
  rw [List.head?_append, List.head?_flatMap]
  congr 1
  · congr 1; funext i; rw [spokeChecks_head]
  · unfold fanoutFailures State.fanoutCheck; exact List.head?_filterMap.symm

theorem mem_cellFailures (i e r fails f) : f ∈ cellFailures i e r fails ↔
    f.spoke = i ∧ f.reason = r ∧ ∃ k c, f.pos = some k ∧ e.cells[k] = some c ∧ fails k c = true := by
  unfold cellFailures
  rw [List.mem_filterMap]
  constructor
  · rintro ⟨k, _, h⟩
    split at h
    · next c hc =>
      split at h
      · next g => cases h; exact ⟨rfl, rfl, k, c, rfl, hc, g⟩
      · cases h
    · cases h
  · rintro ⟨h1, h2, k, c, h3, h4, h5⟩
    refine ⟨k, by simp [allPositions], ?_⟩
    rw [h4]; dsimp only; rw [if_pos h5]
    obtain ⟨a, b, d⟩ := f; cases h1; cases h2; cases h3; rfl

theorem mem_spokeFailures (i r b f) : f ∈ spokeFailures i r b ↔ f.spoke = i ∧ f.reason = r ∧ f.pos = none ∧ b = true := by
  unfold spokeFailures; obtain ⟨x, y, z⟩ := f; cases b <;> simp; tauto

/-- Each list of a spoke's checks is that of a check of its cells, or of a check of the spoke as a whole; none is
FANOUT's. -/
theorem checkLists_kinds (s : State) (full i e r l) (h : (r, l) ∈ checkLists s full i e) :
    r ≠ .fanout ∧ ((∃ fails, l = cellFailures i e r fails) ∨ ∃ b, l = spokeFailures i r b) := by
  suffices all : ∀ x ∈ checkLists s full i e, x.1 ≠ .fanout ∧
      ((∃ fails, x.2 = cellFailures i e x.1 fails) ∨ ∃ b, x.2 = spokeFailures i x.1 b) from all _ h
  unfold checkLists
  simp only [List.forall_mem_cons]
  refine ⟨⟨by decide, .inl ⟨_, rfl⟩⟩, ⟨by decide, ?_⟩, ⟨by decide, .inr ⟨_, rfl⟩⟩, ⟨by decide, .inr ⟨_, rfl⟩⟩,
    ⟨by decide, ?_⟩, ⟨by decide, ?_⟩, ⟨by decide, .inl ⟨_, rfl⟩⟩, ⟨by decide, ?_⟩, by simp⟩
  all_goals split
  all_goals first | exact .inl ⟨_, rfl⟩ | exact .inr ⟨_, rfl⟩ | exact .inr ⟨false, rfl⟩

/-- A failure of a check has the spoke and the check's reason. -/
theorem checkLists_place (s : State) (full i e r l f) (h : (r, l) ∈ checkLists s full i e) (hf : f ∈ l) :
    f.spoke = i ∧ f.reason = r := by
  rcases (checkLists_kinds _ _ _ _ _ _ h).2 with ⟨fails, rfl⟩ | ⟨b, rfl⟩
  · have m := (mem_cellFailures _ _ _ _ _).mp hf
    exact ⟨m.1, m.2.1⟩
  · have m := (mem_spokeFailures _ _ _ _).mp hf
    exact ⟨m.1, m.2.1⟩

theorem order_cell (p : Plan) (f : Failure) (h : f.reason ≠ .fanout) :
    f.order p = [f.spoke.val, checkRank f.reason, (f.pos.map (·.val)).getD 0] := by
  unfold Failure.order; rw [if_neg h]

theorem lt_triple (a b c a' b' c' : Nat) :
    ([a, b, c] < [a', b', c']) ↔ a < a' ∨ (a = a' ∧ (b < b' ∨ (b = b' ∧ c < c'))) := by
  simp [List.cons_lt_cons_iff]

theorem cellFailures_sorted (p : Plan) (i e r fails) (hr : r ≠ .fanout) :
    (cellFailures i e r fails).Pairwise (fun f g => f.order p < g.order p) := by
  unfold cellFailures
  rw [List.pairwise_filterMap]
  have : allPositions.Pairwise (fun a b => a < b) := by decide
  refine this.imp ?_
  intro a b hab f hf g hg
  split at hf
  · split at hf
    · split at hg
      · split at hg
        · cases hf; cases hg
          rw [order_cell _ _ hr, order_cell _ _ hr, lt_triple]; simp; exact hab
        · cases hg
      · cases hg
    · cases hf
  · cases hf

theorem checkLists_sorted (s : State) (p : Plan) (full i e) :
    ((checkLists s full i e).flatMap (·.2)).Pairwise (fun f g => f.order p < g.order p) := by
  rw [List.pairwise_flatMap]
  constructor
  · rintro ⟨r, l⟩ h
    obtain ⟨hr, ⟨fails, rfl⟩ | ⟨b, rfl⟩⟩ := checkLists_kinds _ _ _ _ _ _ h
    · exact cellFailures_sorted _ _ _ _ _ hr
    · unfold spokeFailures; cases b <;> simp
  · have rk : ((checkLists s full i e).map (·.1)).Pairwise (fun a b => checkRank a < checkRank b) := by
      unfold checkLists; simp only [List.map_cons, List.map_nil]; decide
    rw [List.pairwise_map] at rk
    refine List.Pairwise.imp_of_mem ?_ rk
    rintro ⟨r, l⟩ ⟨r', l'⟩ h1 h2 hlt f hf g hg
    obtain ⟨f1, f2⟩ := checkLists_place _ _ _ _ _ _ _ h1 hf
    obtain ⟨g1, g2⟩ := checkLists_place _ _ _ _ _ _ _ h2 hg
    have n1 := (checkLists_kinds _ _ _ _ _ _ h1).1
    have n2 := (checkLists_kinds _ _ _ _ _ _ h2).1
    rw [order_cell _ _ (by rw [f2]; exact n1), order_cell _ _ (by rw [g2]; exact n2), lt_triple, f1, g1, f2, g2]
    exact .inr ⟨rfl, .inl hlt⟩

/-- The lowest position that names a feed. -/
theorem posOf_iff (e : Entry) (f : FeedId) (k : CellPos) : e.posOf f = some k ↔
    ∃ c, e.cells[k] = some c ∧ c.feed = f ∧ ∀ (j : CellPos) (d : Cell), j < k → e.cells[j] = some d → d.feed ≠ f := by
  have q : ∀ j : CellPos, (e.cells[j].map (·.feed) == some f) = true ↔ ∃ d, e.cells[j] = some d ∧ d.feed = f := by
    intro j; simp [Option.map_eq_some_iff]
  unfold Entry.posOf
  have sp : ∀ k : CellPos, ∃ a b, allPositions = a ++ k :: b ∧ (∀ j, j ∈ a ↔ j < k) := by
    intro k; refine ⟨allPositions.filter (· < k), (allPositions.filter (k < ·)), ?_, ?_⟩
    · revert k; decide
    · intro j; simp [allPositions]
  rw [List.find?_eq_some_iff_append]
  constructor
  · rintro ⟨h, a, b, h1, h2⟩
    obtain ⟨c, hc, hf⟩ := (q k).mp h
    refine ⟨c, hc, hf, fun j d hj hd e => ?_⟩
    obtain ⟨a', b', h3, h4⟩ := sp k
    have : a' = a := by
      rw [h1] at h3
      have n : allPositions.Nodup := by decide
      rw [h1] at n
      have ka : k ∉ a := by
        intro h; exact (List.nodup_append.mp n).2.2 k h k (by simp) rfl
      have ka' : k ∉ a' := by rw [h4]; exact lt_irrefl k
      rcases List.append_eq_append_iff.mp h3 with ⟨z, z1, z2⟩ | ⟨z, z1, z2⟩
      · cases z with
        | nil => simpa using z1
        | cons x z => simp at z2; rw [z1, ← z2.1] at ka'; simp at ka'
      · cases z with
        | nil => simpa using z1.symm
        | cons x z => simp at z2; rw [z1, ← z2.1] at ka; simp at ka
    have jm : j ∈ a := by rw [← this, h4]; exact hj
    have := h2 j jm
    rw [Bool.not_eq_true', ← Bool.not_eq_true, q j] at this
    exact this ⟨d, hd, e⟩
  · rintro ⟨c, hc, hf, h⟩
    obtain ⟨a', b', h3, h4⟩ := sp k
    refine ⟨(q k).mpr ⟨c, hc, hf⟩, a', b', h3, fun j hj => ?_⟩
    rw [Bool.not_eq_true', ← Bool.not_eq_true, q j]
    rintro ⟨d, hd, e⟩; exact h j d ((h4 j).mp hj) hd e

theorem posOf_of_carries {p : Plan} {i : SpokeId} {f : FeedId} (h : Carries p i f) : ∃ k, p[i].posOf f = some k := by
  obtain ⟨k, c, h1, h2⟩ := h
  cases hp : p[i].posOf f with
  | some k => exact ⟨k, rfl⟩
  | none =>
    unfold Entry.posOf at hp
    rw [List.find?_eq_none] at hp
    exact absurd (by simp [Option.map_eq_some_iff]; exact ⟨c, h1, h2⟩) (hp k (by simp [allPositions]))

/-- The spoke at a place among a feed's carriers: as many carry the feed before it. -/
theorem carriers_getElem (p : Plan) (f : FeedId) (n : Nat) (i : SpokeId) : (p.carriers f)[n]? = some i ↔
    Carries p i f ∧ ∃ before : List SpokeId, before.length = n ∧ before.Nodup ∧ ∀ j, j ∈ before ↔ j < i ∧ Carries p j f := by
  have mem : ∀ j, j ∈ p.carriers f ↔ Carries p j f := by
    intro j; unfold Plan.carriers; rw [List.mem_filter, Carries_iff]; simp [allSpokes]
  have srt : (p.carriers f).Pairwise (fun a b => a < b) := by
    unfold Plan.carriers
    have : allSpokes.Pairwise (fun a b => a < b) := by decide
    exact this.filter _
  generalize p.carriers f = l at mem srt
  have key : ∀ n, l[n]? = some i → (∀ j, j ∈ l.take n ↔ j < i ∧ j ∈ l) ∧ (l.take n).length = n := by
    intro n h
    rw [List.getElem?_eq_some_iff] at h
    obtain ⟨hn, h⟩ := h
    refine ⟨fun j => ⟨fun hj => ⟨?_, List.mem_of_mem_take hj⟩, fun ⟨h1, h2⟩ => ?_⟩, by simp; omega⟩
    · rw [List.mem_take_iff_getElem] at hj
      obtain ⟨m, hm, rfl⟩ := hj
      rw [← h]; exact List.pairwise_iff_getElem.mp srt _ _ _ _ (by omega)
    · obtain ⟨m, hm, rfl⟩ := List.mem_iff_getElem.mp h2
      rw [List.mem_take_iff_getElem]
      refine ⟨m, ?_, rfl⟩
      by_contra c
      have : n ≤ m := by omega
      rcases Nat.lt_or_eq_of_le this with c | c
      · have := List.pairwise_iff_getElem.mp srt n m hn hm c
        rw [h] at this; exact absurd h1 (not_lt.mpr this.le)
      · subst c; rw [h] at h1; exact lt_irrefl _ h1
  have nd : l.Nodup := srt.imp (fun h => h.ne)
  constructor
  · intro h
    obtain ⟨k1, k2⟩ := key n h
    refine ⟨(mem i).mp (List.mem_of_getElem? h), l.take n, k2, nd.sublist (List.take_sublist _ _), fun j => ?_⟩
    rw [k1, mem]
  · rintro ⟨hc, b, b1, b2, b3⟩
    obtain ⟨m, hm, e⟩ := List.mem_iff_getElem.mp ((mem i).mpr hc)
    have h : l[m]? = some i := by rw [List.getElem?_eq_getElem hm, e]
    obtain ⟨k1, k2⟩ := key m h
    have : b.Perm (l.take m) :=
      (List.perm_ext_iff_of_nodup b2 (nd.sublist (List.take_sublist _ _))).mpr fun j => by rw [b3, k1, mem]
    rw [← b1, this.length_eq, k2]; exact h

/-- What FANOUT fails on: the spoke before which as many spokes carry the feed as the maximum. -/
theorem mem_fanoutFailures (s : State) (p : Plan) (f : Failure) : f ∈ fanoutFailures s p ↔
    f.reason = .fanout ∧ ∃ k c o, f.pos = some k ∧ p[f.spoke].cells[k] = some c ∧
      (∀ (j : CellPos) (d : Cell), j < k → p[f.spoke].cells[j] = some d → d.feed ≠ c.feed) ∧
      s.store.operator s.feeds[c.feed].operator = some o ∧
      ∃ before : List SpokeId, before.length = o.fanout ∧ before.Nodup ∧
        ∀ i : SpokeId, i ∈ before ↔ i < f.spoke ∧ Carries p i c.feed := by
  unfold fanoutFailures
  rw [List.mem_filterMap]
  constructor
  · rintro ⟨fd, _, h⟩
    split at h
    · next o ho =>
      rw [Option.map_eq_some_iff] at h
      obtain ⟨i, hi, rfl⟩ := h
      obtain ⟨hc, hb⟩ := (carriers_getElem p fd o.fanout i).mp hi
      refine ⟨rfl, ?_⟩
      dsimp only
      obtain ⟨k, hk⟩ := posOf_of_carries hc
      obtain ⟨c, h1, h2, h3⟩ := (posOf_iff _ _ _).mp hk
      subst h2
      exact ⟨k, c, o, hk, h1, h3, ho, hb⟩
    · cases h
  · rintro ⟨h1, k, c, o, h2, h3, h4, h5, h6⟩
    refine ⟨c.feed, by simp [allFeeds], ?_⟩
    rw [h5]; dsimp only
    rw [(carriers_getElem p c.feed o.fanout f.spoke).mpr ⟨⟨k, c, h3, rfl⟩, h6⟩]
    rw [Option.map_some, (posOf_iff _ _ k).mpr ⟨c, h3, rfl, h4⟩]
    obtain ⟨x, y, z⟩ := f; cases h1; cases h2; rfl

theorem Entry.count_eq (e : Entry) :
    e.count = ((List.finRange 4).filter fun k : CellPos => (e.cells[k]).isSome).length := by
  unfold Entry.count
  have : e.cells.toList = (List.finRange 4).map fun k : CellPos => e.cells[k] := by
    apply List.ext_getElem
    · simp
    · intro n h1 h2; simp
  rw [this, List.filter_map, List.length_map]; rfl

theorem Entry.count_pos (e : Entry) : 0 < e.count ↔ ∃ k : CellPos, e.cells[k] ≠ none := by
  rw [Entry.count_eq, List.length_pos_iff_exists_mem]
  constructor
  · rintro ⟨k, h⟩; rw [List.mem_filter] at h; exact ⟨k, Option.isSome_iff_ne_none.mp h.2⟩
  · rintro ⟨k, h⟩; exact ⟨k, by rw [List.mem_filter]; exact ⟨by simp, Option.isSome_iff_ne_none.mpr h⟩⟩

theorem namedBelow_iff (e : Entry) (k f) :
    e.namedBelow k f = true ↔ ∃ (j : CellPos) (d : Cell), j < k ∧ e.cells[j] = some d ∧ d.feed = f := by
  unfold Entry.namedBelow
  rw [List.any_eq_true]
  simp only [Bool.and_eq_true, decide_eq_true_eq, beq_iff_eq, Option.map_eq_some_iff]
  constructor
  · rintro ⟨j, _, h1, d, h2, h3⟩; exact ⟨j, d, h1, h2, h3⟩
  · rintro ⟨j, d, h1, h2, h3⟩; exact ⟨j, by simp [allPositions], h1, d, h2, h3⟩

/-- The failures of a spoke's checks are those of the rules. -/
theorem mem_checkLists (s : State) (full : Bool) (p : Plan) (i : SpokeId) (f : Failure) :
    f ∈ (checkLists s full i p[i]).flatMap (·.2) ↔
      f.spoke = i ∧ (full = false → f.reason ≠ .feedTwice ∧ f.reason ≠ .noClass) ∧
      ((∃ k c, f.pos = some k ∧ p[i].cells[k] = some c ∧ CellFails s p[i] k c f.reason) ∨
        (f.pos = none ∧ SpokeFails s p[i] f.reason)) := by
  generalize p[i] = e
  unfold checkLists
  simp only [List.flatMap_cons, List.flatMap_nil, List.append_nil, List.mem_append]
  obtain ⟨sp, pos, r⟩ := f
  have ex : ∀ {P : ClassRec → Prop}, (∃ n r, e.expect = some n ∧ s.store.nodeClass n = some r ∧ P r) ↔
      ∃ r, e.expect.bind s.store.nodeClass = some r ∧ P r := by
    intro P; simp only [Option.bind_eq_some_iff]; constructor
    · rintro ⟨n, r, h1, h2, h3⟩; exact ⟨r, ⟨n, h1, h2⟩, h3⟩
    · rintro ⟨r, ⟨n, h1, h2⟩, h3⟩; exact ⟨n, r, h1, h2, h3⟩
  have mt : ∀ {f : Failure} {b : Bool} {l : List Failure}, f ∈ (if b then l else []) ↔ b = true ∧ f ∈ l := by
    intro f b l; cases b <;> simp
  rw [mt]
  simp only [mem_cellFailures, mem_spokeFailures]
  have ca : (e.expect.isSome && (e.expect.bind s.store.nodeClass).isNone) = true ↔
      ∃ n, e.expect = some n ∧ s.store.nodeClass n = none := by
    cases e.expect <;> simp
  have nc : (full && decide (0 < e.count) && e.expect.isNone) = true ↔
      full = true ∧ (e.expect = none ∧ ∃ k : CellPos, e.cells[k] ≠ none) := by
    rw [Bool.and_eq_true, Bool.and_eq_true, decide_eq_true_eq, Entry.count_pos, Option.isNone_iff_eq_none]; tauto
  rw [ca, nc]
  have pm : ∀ c : Cell, (!s.permits c.feed s.feeds[c.feed]) = true ↔ ¬Permits s c.feed s.feeds[c.feed] := by
    intro c; rw [← State.permits_iff]; simp
  have lv : ∀ (r : ClassRec) (c : Cell), s.levelExceeds r c.feed c.down = true ↔
      (r.level : Int) < (s.feeds[c.feed].level.val : Int) - c.down.val := by
    intro r c; unfold State.levelExceeds; rw [decide_eq_true_eq]; omega
  rcases hcl : e.expect.bind s.store.nodeClass with _ | cl
  all_goals
    cases r <;>
      simp only [mem_cellFailures, mem_spokeFailures, CellFails, SpokeFails, ex, hcl, namedBelow_iff, pm, lv,
        ← Entry.count_eq, reduceCtorEq, false_and, and_false, exists_false, or_false, false_or, ne_eq, not_true,
        not_false_eq_true, and_true, true_and, and_self, List.not_mem_nil, Option.some.injEq, exists_eq_left',
        beq_iff_eq, decide_eq_true_eq, Bool.not_eq_true', implies_true]
    all_goals (try (cases full <;> simp))

/-- What the failures of a plan are. -/
theorem mem_failures (s : State) (full p f) : f ∈ failures s full p ↔ PlanFails s full p f := by
  unfold failures PlanFails
  rw [List.mem_append, List.mem_flatMap, mem_fanoutFailures]
  have : (∃ a ∈ allSpokes, f ∈ (checkLists s full a p[a]).flatMap (·.2)) ↔
      (full = false → f.reason ≠ .feedTwice ∧ f.reason ≠ .noClass) ∧
      ((∃ k c, f.pos = some k ∧ p[f.spoke].cells[k] = some c ∧ CellFails s p[f.spoke] k c f.reason) ∨
        (f.pos = none ∧ SpokeFails s p[f.spoke] f.reason)) := by
    constructor
    · rintro ⟨a, _, h⟩; obtain ⟨rfl, h⟩ := (mem_checkLists s full p a f).mp h; exact h
    · intro h; exact ⟨f.spoke, by simp [allSpokes], (mem_checkLists s full p f.spoke f).mpr ⟨rfl, h⟩⟩
  rw [this]
  constructor
  · rintro (⟨h, a | a⟩ | h)
    · exact ⟨h, .inl a⟩
    · exact ⟨h, .inr (.inl a)⟩
    · exact ⟨fun _ => by rw [h.1]; decide, .inr (.inr h)⟩
  · rintro ⟨h, a | a | a⟩
    · exact .inl ⟨h, .inl a⟩
    · exact .inl ⟨h, .inr a⟩
    · exact .inr a

/-- The failures stand in the order of R63 and R66. -/
theorem failures_sorted (s : State) (full p) :
    (failures s full p).Pairwise (fun f g => f.order p < g.order p) := by
  unfold failures
  rw [List.pairwise_append]
  have bm : ∀ f i, f ∈ (checkLists s full i p[i]).flatMap (·.2) → f.spoke = i ∧ f.reason ≠ .fanout := by
    intro f i h
    rw [List.mem_flatMap] at h
    obtain ⟨⟨r, l⟩, h1, h2⟩ := h
    have := checkLists_place _ _ _ _ _ _ _ h1 h2
    exact ⟨this.1, by rw [this.2]; exact (checkLists_kinds _ _ _ _ _ _ h1).1⟩
  refine ⟨?_, ?_, ?_⟩
  · rw [List.pairwise_flatMap]
    refine ⟨fun i _ => checkLists_sorted s p full i p[i], ?_⟩
    have : allSpokes.Pairwise (fun a b => a < b) := by decide
    refine this.imp ?_
    intro a b hab f hf g hg
    obtain ⟨f1, f2⟩ := bm f a hf
    obtain ⟨g1, g2⟩ := bm g b hg
    rw [order_cell _ _ f2, order_cell _ _ g2, lt_triple, f1, g1]; exact .inl hab
  · unfold fanoutFailures
    rw [List.pairwise_filterMap]
    have : allFeeds.Pairwise (fun a b => a < b) := by decide
    refine this.imp ?_
    intro a b hab f hf g hg
    have fd : ∀ (a : FeedId) (f : Failure), (match s.store.operator s.feeds[a].operator with
        | some o => ((p.carriers a)[o.fanout]?).map fun i => (⟨i, p[i].posOf a, .fanout⟩ : Failure)
        | none => none) = some f → f.order p = [32, a.val] := by
      intro a f h
      split at h
      · next o ho =>
        rw [Option.map_eq_some_iff] at h
        obtain ⟨i, hi, rfl⟩ := h
        obtain ⟨hc, _⟩ := (carriers_getElem p a o.fanout i).mp hi
        obtain ⟨k, hk⟩ := posOf_of_carries hc
        obtain ⟨c, h1, h2, h3⟩ := (posOf_iff _ _ _).mp hk
        unfold Failure.order Failure.feed
        rw [if_pos rfl]; dsimp only; rw [hk]; dsimp only [Option.bind]
        rw [h1]; dsimp only [Option.map]; rw [h2]; rfl
      · cases h
    rw [fd a f hf, fd b g hg]
    simp [List.cons_lt_cons_iff]; exact hab
  · intro f hf g hg
    rw [List.mem_flatMap] at hf
    obtain ⟨i, _, hf⟩ := hf
    obtain ⟨f1, f2⟩ := bm f i hf
    have g2 := ((mem_fanoutFailures s p g).mp hg).1
    rw [order_cell _ _ f2]; unfold Failure.order; rw [if_pos g2]
    simp only [List.cons_lt_cons_iff]; left; omega

end Sys2Proof.Machine
end

