-- ==== Sys2Proof/Laws/Qualifier.lean ====
section
/-! SUPPORT. The Fault Qualifier's evaluations: what one kind's evaluation reads and changes, and what the evaluation of a
spoke makes of each kind's record. -/

namespace Sys2Proof.Machine

theorem setQual_qual (t : State) (i : SpokeId) (k : FaultKind) (q : QualRec) : (t.setQual i k q).qual i k = q := by
  unfold State.setQual State.qual
  dsimp only
  rw [update_same]
  simp

theorem kindIndex_ne {j k : FaultKind} (h : j ≠ k) : kindIndex j ≠ kindIndex k := by
  intro e
  apply h
  cases j <;> cases k <;> first | rfl | exact absurd e (by decide)

theorem setQual_other (t : State) (i : SpokeId) (j k : FaultKind) (q : QualRec) (h : j ≠ k) :
    (t.setQual i k q).qual i j = t.qual i j := by
  unfold State.setQual State.qual
  dsimp only
  rw [update_same]
  exact Vector.getElem_set_ne _ _ fun e => kindIndex_ne h (Fin.ext e.symm)

theorem setQual_row (t : State) (i j : SpokeId) (k : FaultKind) (q : QualRec) (h : j ≠ i) :
    (t.setQual i k q).quals[j] = t.quals[j] := update_other _ _ h

/-- One qualifier event at a spoke touches no other spoke's record, and of the spoke's own its hold, its state and its
settle count; no spoke enters or leaves DARK or TRAINING. -/
structure Isolates (i : SpokeId) (s t : State) : Prop where
  frame : FrameWide s t
  others : ∀ j : SpokeId, j ≠ i → t.spokes[j] = s.spokes[j]
  record : t.spokes[i] = { s.spokes[i] with
    hold := t.spokes[i].hold, state := t.spokes[i].state, settle := t.spokes[i].settle }
  dark : t.spokes[i].state = .dark ↔ s.spokes[i].state = .dark
  training : t.spokes[i].state = .training ↔ s.spokes[i].state = .training
  held : s.spokes[i].hold.isolates = true → t.spokes[i] = s.spokes[i]
  eval : t.due.eval = s.due.eval
  links : t.links = s.links

theorem Isolates.refl (i : SpokeId) (s : State) : Isolates i s s := ⟨.refl s, fun _ _ => rfl, rfl, .rfl, .rfl, fun _ => rfl, rfl, rfl⟩

theorem Isolates.trans {i : SpokeId} {s t u : State} (h : Isolates i s t) (k : Isolates i t u) : Isolates i s u := by
  refine ⟨h.frame.trans k.frame, fun j n => (k.others j n).trans (h.others j n), ?_, k.dark.trans h.dark,
    k.training.trans h.training, fun g => ?_, k.eval.trans h.eval,
    k.links.trans h.links⟩
  · rw [k.record, h.record]
  · rw [k.held (by rw [h.held g]; exact g), h.held g]

/-- What an event at a spoke leaves as it is. -/
theorem Isolates.self {i : SpokeId} {s t : State} (h : Isolates i s t) : t = { s with
    quals := t.quals, spokes := t.spokes, engine := t.engine, channels := t.channels, capture := t.capture,
    due := t.due } := by
  have e := h.frame.self
  rw [h.links] at e
  exact e

theorem setQual_isolates (s : State) (i : SpokeId) (k : FaultKind) (q : QualRec) : Isolates i s (s.setQual i k q) :=
  ⟨setQual_wide s i k q, fun _ _ => rfl, rfl, .rfl, .rfl, fun _ => rfl, rfl, rfl⟩

theorem raise_isolates (s : State) (i : SpokeId) (ch : ChannelId) (src : Option Nat) (d : Detail) :
    Isolates i s (s.raise ch src d) := ⟨(raise_spoke s ch src d).wide, fun _ _ => rfl, rfl, .rfl, .rfl, fun _ => rfl, rfl, rfl⟩

/-- An isolation leaves the evaluations due. -/
theorem isolate_eval (s : State) (i : SpokeId) (r : Reason) : (s.isolate i r).due.eval = s.due.eval := by
  unfold State.isolate State.moveSpoke State.departLive
  split
  · rfl
  · dsimp only
    split
    · rw [raise_due, tellEngine_frame]; rfl
    · rfl

theorem isolate_isolates (s : State) (i : SpokeId) (k : FaultKind) : Isolates i s (s.isolate i (.fault k)) := by
  have e := isolate_spokes s i (.fault k)
  by_cases h : s.spokes[i].hold.isolates = true
  · rw [isolate_held s i _ h]; exact .refl i s
  · rw [if_neg h] at e
    refine ⟨(isolate_spoke s i _).wide, fun j n => by rw [e, update_other _ _ n], ?_, ?_, ?_, fun g => absurd g h,
      isolate_eval s i _, isolate_links s i _⟩
    all_goals
      rw [e, update_same]
      try (cases hs : s.spokes[i].state <;> simp [stateWhenIsolated])

theorem qualify_isolates (s : State) (i : SpokeId) (k : FaultKind) (d : Detail) : Isolates i s (s.qualify i k d) := by
  unfold State.qualify
  dsimp only
  split
  · exact (raise_isolates s i _ _ d).trans (isolate_isolates _ i k)
  · exact raise_isolates s i _ _ d

theorem evaluateCondition_isolates (s : State) (i : SpokeId) (k : FaultKind) : Isolates i s (s.evaluateCondition i k) := by
  unfold State.evaluateCondition
  dsimp only
  have h : Isolates i s (match (s.evaluation i k).measured with
      | some m => State.raiseDuration i k m (decide (s.spokes[i].state = .training))
          (s.setQual i k { (s.evaluation i k).record with seen := !decide (s.spokes[i].state = .training) && s.holds i k })
      | none => s.setQual i k { (s.evaluation i k).record with
          seen := !decide (s.spokes[i].state = .training) && s.holds i k }) := by
    split
    · exact (setQual_isolates s i k _).trans (raise_isolates _ i _ _ _)
    · exact setQual_isolates s i k _
  split
  · exact h.trans (qualify_isolates _ i k _)
  · exact h

theorem evaluate_isolates (s : State) (i : SpokeId) (k : FaultKind) : Isolates i s (s.evaluate i k) := by
  unfold State.evaluate
  split
  · exact .refl i s
  · cases k
    · unfold State.frameErrorsBoundary
      dsimp only
      split <;> first | exact setQual_isolates s i _ _ | exact .refl i s
    all_goals exact evaluateCondition_isolates s i _

theorem qualify_quals (t : State) (i : SpokeId) (k : FaultKind) (d : Detail) : (t.qualify i k d).quals = t.quals := by
  unfold State.qualify
  dsimp only
  split
  · rw [isolate_frame]; rfl
  · rfl

/-- The evaluation of one condition kind, in its parts. -/
theorem evaluateCondition_quals (s : State) (i : SpokeId) (k : FaultKind) : (s.evaluateCondition i k).quals =
    (s.setQual i k { (s.evaluation i k).record with
      seen := !decide (s.spokes[i].state = .training) && s.holds i k }).quals := by
  unfold State.evaluateCondition
  dsimp only
  split
  · rw [qualify_quals]
    split <;> rfl
  · split <;> rfl

/-- What an evaluation of a kind is, by the spoke's state and the kind. -/
theorem evaluate_dark (s : State) (i : SpokeId) (k : FaultKind) (h : s.spokes[i].state = .dark) : s.evaluate i k = s := by
  unfold State.evaluate
  exact if_pos h

theorem evaluate_errors (s : State) (i : SpokeId) (h : s.spokes[i].state ≠ .dark) :
    s.evaluate i .frameErrors = s.frameErrorsBoundary i := by
  unfold State.evaluate
  exact if_neg h

theorem evaluate_condition (s : State) (i : SpokeId) (k : FaultKind) (h : s.spokes[i].state ≠ .dark)
    (hk : k ≠ .frameErrors) : s.evaluate i k = s.evaluateCondition i k := by
  unfold State.evaluate
  rw [if_neg h]
  cases k <;> first | exact absurd rfl hk | rfl

/-- One kind's evaluation writes at most its own record. -/
theorem evaluate_quals (s : State) (i : SpokeId) (k : FaultKind) :
    (s.evaluate i k).quals = s.quals ∨ ∃ q, (s.evaluate i k).quals = (s.setQual i k q).quals := by
  by_cases h : s.spokes[i].state = .dark
  · rw [evaluate_dark s i k h]; exact Or.inl rfl
  · by_cases hk : k = .frameErrors
    · subst hk
      rw [evaluate_errors s i h]
      unfold State.frameErrorsBoundary
      dsimp only
      split <;> first | exact Or.inr ⟨_, rfl⟩ | exact Or.inl rfl
    · rw [evaluate_condition s i k h hk]
      exact Or.inr ⟨_, evaluateCondition_quals s i k⟩

theorem evaluate_row (s : State) (i j : SpokeId) (k : FaultKind) (h : j ≠ i) : (s.evaluate i k).quals[j] = s.quals[j] := by
  rcases evaluate_quals s i k with e | ⟨q, e⟩ <;> simp only [e]
  exact setQual_row _ _ _ _ _ h

theorem evaluate_kind (s : State) (i : SpokeId) (j k : FaultKind) (h : j ≠ k) : (s.evaluate i k).qual i j = s.qual i j := by
  unfold State.qual
  rcases evaluate_quals s i k with e | ⟨q, e⟩ <;> rw [e]
  exact setQual_other _ _ _ _ _ h

/-- What a kind's evaluation reads: the settings, the spoke's values, the energy handed, its own record, and whether the
spoke is in DARK or TRAINING. Its record after it is the same in two states that agree on these. -/
structure SameFor (i : SpokeId) (k : FaultKind) (s t : State) : Prop where
  qual : t.qual i k = s.qual i k
  settings : t.settings = s.settings
  handed : t.handed = s.handed
  dark : t.spokes[i].state = .dark ↔ s.spokes[i].state = .dark
  training : t.spokes[i].state = .training ↔ s.spokes[i].state = .training
  missed : t.spokes[i].missed = s.spokes[i].missed
  faults : t.spokes[i].faults = s.spokes[i].faults
  optical : t.spokes[i].optical = s.spokes[i].optical

theorem Isolates.same {i : SpokeId} {s t : State} (k : FaultKind) (h : Isolates i s t) (q : t.qual i k = s.qual i k) :
    SameFor i k s t := by
  refine ⟨q, ?_, ?_, h.dark, h.training, ?_, ?_, ?_⟩
  · obtain ⟨_, _, _, _, _, _, _, e⟩ := h.frame; rw [e]
  · obtain ⟨_, _, _, _, _, _, _, e⟩ := h.frame; rw [e]
  all_goals rw [h.record]

theorem SameFor.holds {i : SpokeId} {k : FaultKind} {s t : State} (h : SameFor i k s t) : t.holds i k = s.holds i k := by
  unfold State.holds State.settingsOf
  rw [h.settings, h.handed, h.missed, h.faults, h.optical]

theorem SameFor.evaluation {i : SpokeId} {k : FaultKind} {s t : State} (h : SameFor i k s t) :
    t.evaluation i k = s.evaluation i k := by
  have e : (decide (t.spokes[i].state = .training)) = decide (s.spokes[i].state = .training) := decide_eq_decide.mpr h.training
  unfold State.evaluation State.settingsOf
  dsimp only
  rw [h.settings, h.qual, h.holds, e]

theorem SameFor.conditionDetail {i : SpokeId} {k : FaultKind} {s t : State} (h : SameFor i k s t) :
    t.conditionDetail i k = s.conditionDetail i k := by
  unfold State.conditionDetail
  rw [h.handed, h.missed, h.faults, h.optical]

theorem evaluate_same {i : SpokeId} {k : FaultKind} {s t : State} (h : SameFor i k s t) :
    (t.evaluate i k).qual i k = (s.evaluate i k).qual i k := by
  have e : (decide (t.spokes[i].state = .training)) = decide (s.spokes[i].state = .training) := decide_eq_decide.mpr h.training
  by_cases d : s.spokes[i].state = .dark
  · rw [evaluate_dark s i k d, evaluate_dark t i k (h.dark.mpr d), h.qual]
  · have d' : t.spokes[i].state ≠ .dark := fun x => d (h.dark.mp x)
    by_cases hk : k = .frameErrors
    · subst hk
      rw [evaluate_errors s i d, evaluate_errors t i d']
      unfold State.frameErrorsBoundary
      dsimp only
      rw [h.qual]
      split <;> first | rw [setQual_qual, setQual_qual] | exact h.qual
    · rw [evaluate_condition s i k d hk, evaluate_condition t i k d' hk]
      unfold State.qual
      rw [evaluateCondition_quals, evaluateCondition_quals]
      show State.qual _ i k = State.qual _ i k
      rw [setQual_qual, setQual_qual, h.evaluation, h.holds, e]

/-- A run of kinds at one spoke. -/
theorem evaluates_isolates (i : SpokeId) (l : List FaultKind) (s : State) :
    Isolates i s (l.foldl (fun t k => t.evaluate i k) s) := by
  induction l generalizing s with
  | nil => exact .refl i s
  | cons k l ih => exact (evaluate_isolates s i k).trans (ih _)

theorem evaluates_row (i j : SpokeId) (h : j ≠ i) (l : List FaultKind) (s : State) :
    (l.foldl (fun t k => t.evaluate i k) s).quals[j] = s.quals[j] := by
  induction l generalizing s with
  | nil => rfl
  | cons k l ih => exact (ih _).trans (evaluate_row s i j k h)

theorem evaluates_kind (i : SpokeId) (j : FaultKind) (l : List FaultKind) (h : j ∉ l) (s : State) :
    (l.foldl (fun t k => t.evaluate i k) s).qual i j = s.qual i j := by
  induction l generalizing s with
  | nil => rfl
  | cons k l ih =>
    rw [List.mem_cons, not_or] at h
    exact (ih h.2 _).trans (evaluate_kind s i j k h.1)

/-- The kinds before and after one kind, in the order of an evaluation of a spoke. -/
theorem allKinds_split (k : FaultKind) : ∃ a b, allKinds = a ++ k :: b ∧ k ∉ a ∧ k ∉ b := by
  cases k
  · exact ⟨[], _, rfl, by decide, by decide⟩
  · exact ⟨[.frameErrors], _, rfl, by decide, by decide⟩
  · exact ⟨[.frameErrors, .uplinkOverload], _, rfl, by decide, by decide⟩
  · exact ⟨[.frameErrors, .uplinkOverload, .nodeSilent], _, rfl, by decide, by decide⟩
  · exact ⟨[.frameErrors, .uplinkOverload, .nodeSilent, .nodeFault], [], rfl, by decide, by decide⟩

/-- The evaluation of a spoke leaves each kind's record as that kind's own evaluation leaves it. -/
theorem evaluateSpoke_qual (s : State) (i : SpokeId) (k : FaultKind) :
    (s.evaluateSpoke i).qual i k = (s.evaluate i k).qual i k := by
  obtain ⟨a, b, e, ha, hb⟩ := allKinds_split k
  unfold State.evaluateSpoke
  rw [e, List.foldl_append, List.foldl_cons, evaluates_kind i k b hb]
  exact evaluate_same ((evaluates_isolates i a s).same k (evaluates_kind i k a ha s))

/-- The channels that one kind's evaluation leaves as they are. -/
theorem qualify_other (s : State) (i : SpokeId) (k : FaultKind) (d : Detail) (c : ChannelId) (h : c ≠ kindChannel k)
    (hi : c ≠ chIsolation) (he : c ≠ chCutoverEnd) : (s.qualify i k d).channels[c] = s.channels[c] := by
  unfold State.qualify
  dsimp only
  split
  · rw [isolate_other _ _ _ _ he hi, raise_other _ _ _ _ _ h]
  · rw [raise_other _ _ _ _ _ h]

theorem evaluate_other (s : State) (i : SpokeId) (k : FaultKind) (c : ChannelId) (h : c ≠ kindChannel k)
    (hi : c ≠ chIsolation) (he : c ≠ chCutoverEnd) (hd : c ≠ chDuration) :
    (s.evaluate i k).channels[c] = s.channels[c] := by
  by_cases d : s.spokes[i].state = .dark
  · rw [evaluate_dark s i k d]
  · by_cases hk : k = .frameErrors
    · subst hk
      rw [evaluate_errors s i d]
      unfold State.frameErrorsBoundary
      dsimp only
      split <;> rfl
    · rw [evaluate_condition s i k d hk]
      unfold State.evaluateCondition
      dsimp only
      cases (s.evaluation i k).measured with
      | none =>
        dsimp only
        split
        · exact qualify_other _ _ _ _ _ h hi he
        · rfl
      | some m =>
        have r := raise_other (s.setQual i k { (s.evaluation i k).record with
          seen := !decide (s.spokes[i].state = .training) && s.holds i k }) chDuration c (some i.val)
        dsimp only
        split
        · exact (qualify_other _ _ _ _ _ h hi he).trans (r _ hd)
        · exact r _ hd

theorem evaluates_other (i : SpokeId) (c : ChannelId) (hi : c ≠ chIsolation) (he : c ≠ chCutoverEnd) (hd : c ≠ chDuration)
    (l : List FaultKind) (h : ∀ k ∈ l, c ≠ kindChannel k) (s : State) :
    (l.foldl (fun t k => t.evaluate i k) s).channels[c] = s.channels[c] := by
  induction l generalizing s with
  | nil => rfl
  | cons k l ih =>
    exact (ih (fun x hx => h x (List.mem_cons_of_mem _ hx)) _).trans
      (evaluate_other s i k c (h k List.mem_cons_self) hi he hd)

/-- The other kinds of a spoke raise nothing on a kind's channel. -/
theorem evaluates_kindChannel (i : SpokeId) (k : FaultKind) (l : List FaultKind) (h : k ∉ l) (t : State) :
    (l.foldl (fun t k => State.evaluate i k t) t).channels[kindChannel k] = t.channels[kindChannel k] := by
  refine evaluates_other i _ (by cases k <;> decide) (by cases k <;> decide) (by cases k <;> decide) l ?_ t
  intro j hj e
  have n : j ≠ k := by rintro rfl; exact h hj
  revert e n; cases j <;> cases k <;> decide

/-- A qualification raises the kind's channel with its detail. -/
theorem qualify_raises (u : State) (i : SpokeId) (k : FaultKind) (d : Detail)
    (h : u.channels[kindChannel k].enabled = true) :
    ∃ e ∈ (u.qualify i k d).channels[kindChannel k].list, e.source = some i.val ∧ e.detail = d := by
  have m := raise_mem u (kindChannel k) (some i.val) d h
  unfold State.qualify
  dsimp only
  split
  · rw [isolate_other _ _ _ _ (by cases k <;> decide) (by cases k <;> decide)]; exact m
  · exact m

/-- A condition kind that qualifies at a spoke's evaluation, with no measurement ended, is raised on its channel. -/
theorem evaluateSpoke_raises (i : SpokeId) (k : FaultKind) (s v : State) (sv : SameFor i k s v)
    (vc : v.channels = s.channels) (hk : k ≠ .frameErrors) (hd : s.spokes[i].state ≠ .dark)
    (eq : (s.evaluation i k).qualifies = true) (em : (s.evaluation i k).measured = none)
    (hen : s.channels[kindChannel k].enabled = true) :
    ∃ e ∈ (v.evaluateSpoke i).channels[kindChannel k].list, e.source = some i.val ∧
      e.detail = s.conditionDetail i k := by
  obtain ⟨a, b, el, ha, hb⟩ := allKinds_split k
  have ia : Isolates i v (a.foldl (fun t k => State.evaluate i k t) v) := evaluates_isolates i a v
  have qa := evaluates_kind i k a ha v
  have ca := evaluates_kindChannel i k a ha v
  unfold State.evaluateSpoke
  rw [el, List.foldl_append, List.foldl_cons, evaluates_kindChannel i k b hb]
  generalize a.foldl (fun t k => State.evaluate i k t) v = w at ia qa ca ⊢
  have sw := ia.same k qa
  rw [evaluate_condition w i k (fun z => hd (sv.dark.mp (sw.dark.mp z))) hk]
  unfold State.evaluateCondition
  dsimp only
  rw [sw.evaluation, sv.evaluation, em, eq, if_pos rfl, sw.conditionDetail, sv.conditionDetail]
  exact qualify_raises _ i k _ (by show w.channels[kindChannel k].enabled = true; rw [ca, vc]; exact hen)

end Sys2Proof.Machine
end

