-- ==== Sys2Proof/Laws/Raises.lean ====
section
/-! SUPPORT. Raises of several feeds on channel 0 (R6, R18): one for each feed of a set, and nothing else. -/

namespace Sys2Proof.Machine

/-- A raise leaves the entries of every other source as they are (R130). -/
theorem gather_others (frame : Half) (src x : Option Nat) (d : Detail) (h : x ≠ src) (l : List SourceEntry) :
    (gather frame src d l).filter (fun e => e.source == x) = l.filter (fun e => e.source == x) := by
  induction l with
  | nil => simp [gather, Ne.symm h]
  | cons e es ih =>
    unfold gather
    split
    · next hit => simp [hit, Ne.symm h]
    · simp [List.filter_cons, ih]

theorem raise_others (s : State) (c : ChannelId) (src x : Option Nat) (d : Detail) (h : x ≠ src) :
    (s.raise c src d).channels[c].list.filter (fun e => e.source == x) =
      s.channels[c].list.filter (fun e => e.source == x) := by
  rw [raise_at]
  unfold Channel.raise
  split
  · exact gather_others _ _ _ _ h _
  · rfl

theorem raiseClips_feeds (clipped : Vector Bool 24) (s : State) :
    s.raiseClips clipped = feedsRaised .clip (fun f => clipped[f]) s := by
  unfold State.raiseClips feedsRaised
  rw [List.foldl_filter]
  rfl

theorem raiseSilent_feeds (p : PortId) (s : State) : s.raiseSilent p = feedsRaised .silentPort (s.activeOf p) s := by
  unfold State.raiseSilent feedsRaised
  rw [List.foldl_filter]
  simp [State.activeOf, chFeedTrouble]

theorem activeOf_iff (s : State) (p : PortId) (f : FeedId) :
    s.activeOf p f = true ↔ portOf f = p ∧ s.feeds[f].state = .active := by
  unfold State.activeOf
  rw [Bool.and_eq_true, beq_iff_eq, beq_iff_eq]

/-- Such raises change the channels alone. -/
theorem feedsRaised_frame (d : Detail) (which : FeedId → Bool) (s : State) :
    feedsRaised d which s = { s with channels := (feedsRaised d which s).channels } := by
  unfold feedsRaised
  generalize allFeeds.filter which = l
  induction l generalizing s with
  | nil => rfl
  | cons f l ih => rw [List.foldl_cons, ih]; rfl

/-- What such raises do depends on the channels and the frame alone. -/
theorem feedsRaised_channels (d : Detail) (which : FeedId → Bool) (s t : State) (frame : s.frame = t.frame)
    (channels : s.channels = t.channels) : (feedsRaised d which s).channels = (feedsRaised d which t).channels := by
  unfold feedsRaised
  generalize allFeeds.filter which = l
  induction l generalizing s t with
  | nil => exact channels
  | cons f l ih => exact ih _ _ frame (by simp [State.raise, frame, channels])

theorem feedsRaised_other (d : Detail) (which : FeedId → Bool) (s : State) (c : ChannelId) (h : c ≠ 0) :
    (feedsRaised d which s).channels[c] = s.channels[c] := by
  unfold feedsRaised
  generalize allFeeds.filter which = l
  induction l generalizing s with
  | nil => rfl
  | cons f l ih => rw [List.foldl_cons, ih, raise_other _ _ _ _ _ h]

theorem feedsRaised_others (d : Detail) (which : FeedId → Bool) (s : State) :
    OthersKept which s.channels[(0 : ChannelId)] (feedsRaised d which s).channels[(0 : ChannelId)] := by
  intro x hx
  unfold feedsRaised
  have hl : ∀ f ∈ allFeeds.filter which, x ≠ some f.val := fun f hf => hx f (List.mem_filter.mp hf).2
  generalize allFeeds.filter which = l at hl
  induction l generalizing s with
  | nil => rfl
  | cons f l ih =>
    rw [List.foldl_cons, ih _ fun g hg => hl g (List.mem_cons_of_mem _ hg)]
    exact raise_others _ _ _ _ _ (hl f List.mem_cons_self)

/-- An entry with the raise's detail stays one. -/
theorem gather_keeps_detail (frame : Half) (src x : Option Nat) (d : Detail) (l : List SourceEntry)
    (h : ∃ e ∈ l, e.source = x ∧ e.detail = d) : ∃ e ∈ gather frame src d l, e.source = x ∧ e.detail = d := by
  obtain ⟨e, m, hs, hd⟩ := h
  induction l with
  | nil => cases m
  | cons y ys ih =>
    unfold gather
    split
    · rcases List.mem_cons.mp m with rfl | m
      · exact ⟨_, List.mem_cons_self, hs, rfl⟩
      · exact ⟨e, List.mem_cons_of_mem _ m, hs, hd⟩
    · rcases List.mem_cons.mp m with rfl | m
      · exact ⟨_, List.mem_cons_self, hs, hd⟩
      · obtain ⟨z, zm, hz⟩ := ih m
        exact ⟨z, List.mem_cons_of_mem _ zm, hz⟩

/-- Each feed of the set has its entry with the detail. -/
theorem feedsRaised_mem (d : Detail) (which : FeedId → Bool) (s : State) (f : FeedId) (hf : which f = true)
    (on : s.channels[(0 : ChannelId)].enabled = true) :
    ∃ e ∈ (feedsRaised d which s).channels[(0 : ChannelId)].list, e.source = some f.val ∧ e.detail = d := by
  unfold feedsRaised
  have hm : f ∈ allFeeds.filter which := List.mem_filter.mpr ⟨List.mem_finRange f, hf⟩
  have keep : ∀ (l : List FeedId) (t : State),
      (∃ e ∈ t.channels[(0 : ChannelId)].list, e.source = some f.val ∧ e.detail = d) →
      ∃ e ∈ (l.foldl (fun u g => u.raise 0 (some g.val) d) t).channels[(0 : ChannelId)].list,
        e.source = some f.val ∧ e.detail = d := by
    intro l
    induction l with
    | nil => exact fun _ h => h
    | cons g l ih =>
      intro t h
      apply ih
      rw [raise_at]
      unfold Channel.raise
      split
      · exact gather_keeps_detail _ _ _ _ _ h
      · exact h
  generalize allFeeds.filter which = l at hm
  induction l generalizing s with
  | nil => cases hm
  | cons g l ih =>
    rw [List.foldl_cons]
    rcases List.mem_cons.mp hm with rfl | m
    · exact keep l _ (raise_mem s 0 _ d on)
    · refine ih _ ?_ m
      rw [raise_at]
      unfold Channel.raise
      rw [if_pos on]
      exact on

theorem feedsRaised_none (d : Detail) (which : FeedId → Bool) (s : State) (h : ∀ f, which f = false) :
    feedsRaised d which s = s := by
  unfold feedsRaised
  rw [List.filter_eq_nil_iff.mpr fun f _ => by simp [h f]]
  rfl

end Sys2Proof.Machine
end

