-- ==== Sys2Proof/Tests/Slice0.lean ====
section
/-! SUPPORT. Tests: ill-formed steps that the check refuses, the manual's written messages, worked figures, and for each
statement with hypotheses concrete states that meet them, clause by clause. -/

namespace Sys2Proof.Tests

set_option Elab.async false

open Sys2Proof Sys2Proof.Machine

/-! ## Well-formedness: one ill-formed step for each check -/

theorem test_wf_plan_cell_none : (Instr.planCell 0 0 []).wf = false := by decide
theorem test_wf_plan_cell_nine : (Instr.planCell 0 0 (List.replicate 9 ⟨0, 0, 0, 0, 0⟩)).wf = false := by decide
theorem test_wf_plan_expect_none : (Instr.planExpect 0 0 []).wf = false := by decide
theorem test_wf_plan_expect_many : (Instr.planExpect 0 0 (List.replicate 17 ⟨0, 0⟩)).wf = false := by decide
theorem test_wf_trim_none : (Instr.trim 0 []).wf = false := by decide
theorem test_wf_trim_many : (Instr.trim 0 (List.replicate 49 0)).wf = false := by decide
theorem test_wf_sweep_short : (Instr.sweepOrder 0 (List.replicate 31 0)).wf = false := by decide
theorem test_wf_sweep_long : (Instr.sweepOrder 0 (List.replicate 33 0)).wf = false := by decide
theorem test_wf_meter_none : (Instr.meterRead 0 []).wf = false := by decide
theorem test_wf_meter_many : (Instr.meterRead 0 (List.replicate 33 0)).wf = false := by decide
theorem test_wf_unknown_known : (Instr.commandUnknown 0 0x01#6).wf = false := by decide
theorem test_wf_malformed_unknown : (Instr.commandMalformed 0 0x00#6).wf = false := by decide
theorem test_wf_complete_none : (Instr.commandComplete []).wf = false := by decide
theorem test_wf_complete_many : (Instr.commandComplete (List.replicate 65 0)).wf = false := by decide
theorem test_wf_report_none : (Instr.reportComplete 0 []).wf = false := by decide
theorem test_wf_report_many : (Instr.reportComplete 0 (List.replicate 13 0)).wf = false := by decide
theorem test_wf_damaged_none : (Instr.sampleGroupDamaged 0 0).wf = false := by decide
theorem test_wf_feed_set : (Instr.feedSet 0x22 0xFF 0xFF 0xFF 0xFF 0xFF).wf = true := by decide

/-! ## Messages, written out by hand from R167 and R169 -/

/-- The check of the nine digits, the usual figure of R167's polynomial and start. -/
theorem test_crc_check : crc [0x31, 0x32, 0x33, 0x34, 0x35, 0x36, 0x37, 0x38, 0x39] = 0x29B1#16 := by decide +kernel

theorem test_message_hub_status :
    (Instr.hubStatus 7).messageBytes = [0xC3, 0x06, 0x7D, 0x07, 0x10, 0xFA] ∧
    commandIn [0xC3, 0x06, 0x7D, 0x07, 0x10, 0xFA] = some (.hubStatus 7) := by decide +kernel

theorem test_message_resync : commandIn [0xC3, 0x06, 0x7C, 0x30, 0x65, 0x7F] = some (.resync 0x30) := by decide +kernel

theorem test_message_spoke_isolate :
    commandIn [0xC3, 0x07, 0x48, 0x11, 0x05, 0x49, 0xA0] = some (.spokeIsolate 0x11 5) := by decide +kernel

theorem test_message_feed_set :
    commandIn [0xC3, 0x0B, 0x41, 0x22, 0x0D, 0x01, 0x02, 0x05, 0x3C, 0xE9, 0xB3] =
      some (.feedSet 0x22 0x0D 0x01 0x02 0x05 0x3C) := by decide +kernel

theorem test_message_poll_set :
    commandIn [0xC3, 0x08, 0x4F, 0x23, 0x01, 0xF4, 0x85, 0xA3] = some (.pollSet 0x23 500) := by decide +kernel

/-- A message whose check fails holds no command. -/
theorem test_message_damaged : commandIn [0xC3, 0x06, 0x7D, 0x07, 0x10, 0xFB] = none := by decide +kernel

/-- A body of a length that the code does not allow, and a code that names no command (R157). -/
theorem test_message_marks :
    commandIn (envelope 1#2 0x3D#6 9 [0]) = some (.commandMalformed 9 0x3D#6) ∧
    commandIn (envelope 1#2 0x00#6 9 []) = some (.commandUnknown 9 0x00#6) := by decide +kernel

/-- No row of the table has bits, so no word spells a command. -/
theorem test_no_word : decodeTableWord 32 0xFFFFFFFF = none := by decide

/-! ## Figures of the manual -/

/-- Attenuation (R14): code 0 keeps a component, code 12 (6 dB) takes 1000 to 501, halves round away from zero. -/
theorem test_attenuate : attenuateComponent 0 (-32767) = -32767 ∧ attenuateComponent 12 1000 = 501 ∧
    attenuateComponent 63 32767 = 872 ∧ attenuateComponent 12 (-1) = -1 := by decide +kernel

/-- Full scale on both components gives 65535 (R19). -/
theorem test_power_scale : scalePower (2 * 32767 ^ 2) 1 = 65535 ∧ scalePower 0 0 = 0 := by decide +kernel

/-- A meter at 0 needs 16 of energy for its first step, upward and downward (R95). -/
theorem test_meter : moveMeter 0 15 = 0 ∧ moveMeter 0 16 = 1 ∧ moveMeter 160 0 = 150 := by decide

/-- The scale of METER READ at its ends (R171). -/
theorem test_meter_shift : meterShift [4095] = 0 ∧ meterShift [4096] = 1 ∧ meterShift [65535, 0] = 4 := by decide

/-- METER READ of one meter of 0xABC, not stale: shift, four bytes of flags, twelve bits and a half byte 0 (R171). -/
theorem test_meter_body : meterBody [⟨0xABC, false⟩] = [0, 0, 0, 0, 0, 0xAB, 0xC0] := by decide

/-- A HELLO REQUEST and a HEALTH POLL are five bytes with their check (R174). -/
theorem test_requests : Request.hello.bytes.take 3 = [0x5A, 5, 0x81] ∧ Request.healthPoll.bytes.length = 5 ∧
    checkPasses Request.hello.bytes = true := by decide +kernel

/-! ## States for the witnesses -/

/-- A hub that has started: every port UP, the store IDLE. -/
def ready : State :=
  { State.reset with ports := Vector.replicate 6 true, store := { Store.factory with engine := .idle, left := 0 } }

/-- Spoke 5 in a state, with class 2 known where the state has one, its link locked. -/
def spokeIn (st : SpokeState) (h : Hold) (cls : Option NodeClass) (s : State) : State :=
  (s.mapSpoke 5 fun r => { r with state := st, hold := h, knownClass := cls }).mapLink 5 fun l => { l with locked := true }

/-- Spoke 5 LIVE with class 2. -/
def live : State := spokeIn .live .none (some 2) ready

/-- The engine changed. -/
def withEngine (f : Engine → Engine) (s : State) : State := { s with engine := f s.engine }

/-- The lane changed. -/
def withLane (f : Lane → Lane) (s : State) : State := { s with lane := f s.lane }

/-- Slot 3 in a state, with a plan that expects class 1 of spoke 5. -/
def slot3 (st : SlotState) (s : State) : State :=
  { s with slots := s.slots.set 3 ⟨st, Plan.empty.set 5 ⟨some 1, noCells⟩, none⟩ }

/-- Slot 3 READY and bound to bank A. -/
def bound3 (s : State) : State := withEngine (fun e => { e with bankA := some 3 }) (slot3 .ready s)

/-- Eight messages in the Outbound Queue. -/
def full (s : State) : State :=
  withLane (fun l => { l with outbound := List.replicate 8 (.response 0 0x3D#6 .done []) }) s

/-- Class 2 and operator 2 present in the working copy (a capacity of 4, bands 5, level code 60; ports 3, fan-out 4). -/
def entitled (s : State) : State :=
  { s with store := { s.store with
      working := (s.store.working.set 10 (some (.nodeClass ⟨0x0020#16, 4, 60⟩))).set 2
        (some (.operator ⟨0x08#6, 0x0020#16, 4⟩)) } }

/-- Whether a command that arrives is taken at once: the Command Unit free, the intake queue empty, the lane quiet, and
room in the frame. -/
def openTo (s : State) (i : Instr) : Bool :=
  s.lane.held.isNone && !s.lane.resetArmed && s.store.engine != .reading && s.hears i && !s.lane.overrun &&
    s.lane.intake.isEmpty

theorem claim_of_open {s : State} {i : Instr} (h : openTo s i = true) : s.claim i = some (s.receive i) := by
  unfold openTo at h
  simp only [Bool.and_eq_true, List.isEmpty_iff] at h
  obtain ⟨⟨⟨⟨⟨h1, h2⟩, h3⟩, h4⟩, h5⟩, h6⟩ := h
  unfold State.claim State.canTake
  rw [h1, h2, h3, h6]
  simp [h4, h5]

/-- A command that arrives at a state and is taken at once, with what a clause asks of the state it is taken in. -/
theorem met {s : State} {i : Instr} {P : State → Prop} (h : openTo s i = true) (p : P (s.receive i)) :
    ∃ t, s.claim i = some t ∧ P t := ⟨s.receive i, claim_of_open h, p⟩

/-- Every command at the head of the intake queue is taken by the started hub, with every operand: the hypothesis
`s.claim i = some t` holds. -/
theorem test_claim_head (i : Instr) :
    (withLane (fun l => { l with intake := [i, .fold 2] }) ready).claim i =
      some (withLane (fun l => { l with intake := [.fold 2] }) ready) := by
  simp [State.claim, State.canTake, withLane, State.mapLane, ready, Store.factory, State.reset, Lane.reset]

/-- A command that arrives is taken at once where its 6 bytes are the last of the frame's 256, and an assembly that the
boundary found starved goes first. -/
theorem test_claim_arriving :
    (let s := withLane (fun l => { l with received := 250 }) ready
     openTo s (.halt 1) = true ∧ (s.receive (.halt 1)).lane.received = 256) ∧
    (let s := withLane (fun l => { l with received := 251 }) ready; s.claim (.halt 1) = none) ∧
    (let s : State := { withLane (fun l => { l with assembly := some [0xC3#8] }) ready with
      due := { Due.empty with abandon := true } }
     openTo s (.halt 1) = true ∧ (s.receive (.halt 1)).lane.assembly = none) := by decide +kernel

/-! ## Witnesses: the machine as a whole -/

theorem test_witness_empty_queue : (ready.pending = [] ∧ ready.turnsLeft = false ∧ ready.arriving = []) ∧
    (let s : State := { ready with arriving := [⟨[(0, ⟨1, 0⟩)], []⟩] }
     s.pending = [] ∧ s.turnsLeft = false ∧ s.arriving = ⟨[(0, ⟨1, 0⟩)], []⟩ :: []) ∧
    (∀ d ∈ [{ Due.empty with abandon := true }, { Due.empty with reports := 1 }],
      let s : State := { ready with due := d }
      s.pending = [] ∧ s.turnsLeft = true ∧ s.arriving = [] ∧ ({ s with arriving := [⟨[], []⟩] } : State).turnsLeft = true) ∧
    ready.store.ends = false ∧ State.reset.store.engine = .reading ∧
    (∀ e ∈ [StoreEngine.reading, .locking, .erasing 3, .writing 15 (.nodeClass ⟨0, 1, 0⟩)],
      ({ ready.store with engine := e, left := 0 } : Store).ends = true) := by decide +kernel

theorem test_witness_message_reads_back : ∀ i ∈ [Instr.hubStatus 7, .commandUnknown 9 0x3F#6, .commandMalformed 9 0x3D#6],
    i.wf = true ∧ i.header.isSome = true := by decide

/-- Spoke 5's last position with a cell of feed 12 in both sets, the feed latched in a state, the link locked at the open. -/
def latched (st : FeedState) (s : State) : State :=
  { s with fabric := { s.fabric with
      carry := s.fabric.carry.set 5 (noCells.set 3 (some ⟨12, 12, 0, 255⟩))
      sum := s.fabric.sum.set 5 (noCells.set 3 (some ⟨12, 12, 0, 255⟩))
      feedState := s.fabric.feedState.set 12 st, lockedAtOpen := s.fabric.lockedAtOpen.set 5 true } }

theorem test_witness_sample_period :
    (let s := latched .active live
     s.fabric.carry[(5 : SpokeId)][(3 : CellPos)] = some ⟨12, 12, 0, 255⟩ ∧
      s.fabric.sum[(5 : SpokeId)][(3 : CellPos)] = some ⟨12, 12, 0, 255⟩ ∧ s.fabric.feedState[(12 : FeedId)] = .active ∧
      s.ports[portOf 12] = true ∧ s.links[(5 : SpokeId)].locked = true ∧ s.links[(5 : SpokeId)].damaged = 0 ∧
      s.fabric.lockedAtOpen[(5 : SpokeId)] = true ∧ s.fabric.carry[(5 : SpokeId)][(2 : CellPos)] = none ∧
      s.fabric.sum[(5 : SpokeId)][(2 : CellPos)] = none ∧ s.fabric.saturated[(12 : FeedId)] = false) ∧
    (latched .muted live).fabric.feedState[(12 : FeedId)] ≠ .active ∧ State.reset.ports[portOf 12] = false ∧
    ready.links[(5 : SpokeId)].locked = false ∧ ready.fabric.lockedAtOpen[(5 : SpokeId)] = false ∧
    0 < (live.mapLink 5 fun l => { l with damaged := 1 }).links[(5 : SpokeId)].damaged := by decide +kernel

/-- Code 0 keeps full scale (R14); two full-scale contributions exceed it and are limited to it (R16). -/
theorem test_attenuated_sum : attenuate 0 ⟨32767, -32767⟩ = ⟨32767, -32767⟩ ∧ (32767 : Int).natAbs ≤ 32767 ∧
    max (-32767) (min 32767 (32767 + 32767 : Int)) = 32767 ∧ (32767 : Int) < 32767 + 32767 := by decide +kernel

theorem test_witness_lane_bounded :
    let s := withLane (fun l => { l with assembly := some [0xC3#8, 64#8] }) (full ready)
    LaneBounded s ∧ ∃ t, step (s.queued .messageLeaves []) = .next t :=
  ⟨by unfold LaneBounded; decide +kernel, _, rfl⟩

theorem test_witness_spokes_coherent :
    SpokesCoherent live ∧ ∃ t, step (live.queued (.spokeQuiet 1 5) []) = .next t :=
  ⟨by unfold SpokesCoherent; decide +kernel, _, rfl⟩

theorem test_witness_bound_ready :
    BoundReady (bound3 ready) ∧ ∃ t, step ((bound3 ready).queued (.planDrop 1 3) []) = .next t :=
  ⟨by unfold BoundReady; decide +kernel, _, rfl⟩

/-- Slot 3 LOADING with the pointer at its spoke 5, last position, part UL, and a downlink code staged. -/
def pointed (part : Part) (st : Staging) : State := { slot3 .loading ready with pointer := some ⟨3, 5, 3, part⟩, staging := st }

theorem test_witness_pointer_staged :
    PointerStaged (pointed .ul ⟨some 63, none⟩) ∧
      ∃ t, step ((pointed .ul ⟨some 63, none⟩).queued (.trim 1 [0]) []) = .next t :=
  ⟨by unfold PointerStaged; decide +kernel, _, rfl⟩

/-- One channel of a started hub changed. -/
def withChannel (c : ChannelId) (f : Channel → Channel) (s : State) : State := { s with channels := update s.channels c f }

theorem test_witness_channels_ordered :
    ChannelsOrdered (withChannel 13 (fun c => { c with inService := true, list := [⟨some 5, 0, 1, .none⟩] }) ready) ∧
      ∃ t, step (ready.queued (.alarmDone 1 13) []) = .next t :=
  ⟨by unfold ChannelsOrdered; decide +kernel, _, rfl⟩

/-- A cutover under way, from line 0 to 4, with a current step. -/
def stepping (line : Fin 33) (cur : Option CurrentStep) (s : State) : State :=
  withEngine (fun e => { e with
    state := .stepping, line := line, params := some ⟨4, 1, 2, false, .command⟩, current := cur, bankA := some 3,
    bankB := some 3 }) (slot3 .ready s)

theorem test_witness_engine_coherent : EngineCoherent (stepping 1 (some ⟨0, true, false, 0⟩) ready) ∧
    ∃ t, step ((stepping 1 (some ⟨0, true, false, 0⟩) ready).queued (.halt 1) []) = .next t :=
  ⟨by unfold EngineCoherent; decide +kernel, _, rfl⟩

theorem test_witness_store_lock : (let s : State := { ready with store := { ready.store with locked := true } }
    s.store.locked = true ∧ ∃ t, step (s.queued (.powerOnReset 7) []) = .next t) := ⟨by decide +kernel, _, rfl⟩

/-! ## Witnesses: the Timebase and the carrier ports -/

theorem test_witness_frame_boundary :
    ({ ready with reference := .locked } : State).boundaryRuns = true ∧ State.reset.boundaryRuns = true ∧
      ready.boundaryRuns = false := by decide +kernel

/-- Spoke 5 changed. -/
def withSpoke (f : SpokeRec → SpokeRec) (s : State) : State := s.mapSpoke 5 f

theorem test_witness_boundary_opens :
    ready.spokes[(5 : SpokeId)].state = .dark ∧
    (∀ n ∈ [8, 9], (withSpoke (fun r => { r with elapsed := n }) (spokeIn .training .none none ready)).spokes[(5 : SpokeId)].state =
      .training ∧ ((n + 1) % 10 = 0 ∨ (n + 1) % 10 ≠ 0)) ∧ (8 + 1) % 10 ≠ 0 ∧ (9 + 1) % 10 = 0 ∧
    (∀ n ∈ [1, 63], live.spokes[(5 : SpokeId)].state = .live ∧
      0 < (withSpoke (fun r => { r with settle := n }) live).spokes[(5 : SpokeId)].settle) ∧
    live.spokes[(5 : SpokeId)].settle = 0 ∧ (spokeIn .quiet .quiet (some 2) ready).spokes[(5 : SpokeId)].state = .quiet ∧
    (spokeIn .isolated (.isolate .admin) none ready).spokes[(5 : SpokeId)].state = .isolated ∧
    (withSpoke (fun r => { r with nextPoll := 1 }) live).spokes[(5 : SpokeId)].nextPoll ≤ 1 ∧
    1 < (withSpoke (fun r => { r with nextPoll := 2 }) live).spokes[(5 : SpokeId)].nextPoll ∧
    (let s : State := { ready with fabric := { ready.fabric with saturated := ready.fabric.saturated.set 23 true } }
     s.fabric.saturated[(23 : FeedId)] = true ∧ s.channels[chFeedTrouble].enabled = true) ∧
    (∀ f : FeedId, ready.fabric.saturated[f] = false) ∧
    (∀ u ∈ [{ ready.capture with collection := some (live.newCollection ⟨5, 0, .power⟩ false) },
        { ready.capture with single := some ⟨5, 0, .power⟩ }, { ready.capture with continuous := some ⟨⟨5, 0, .power⟩, 7, 1⟩ }],
      ({ ready with capture := u } : State).openBoundary.due.capture = true) ∧
    (let s : State := { ready with capture := { ready.capture with continuous := some ⟨⟨5, 0, .power⟩, 7, 2⟩ } }
     s.openBoundary.due.capture = false ∧ s.openBoundary.capture.continuous = some ⟨⟨5, 0, .power⟩, 7, 1⟩) ∧
    (let s := withLane (fun l => { l with assembly := some [0xC3#8] }) ready
     s.lane.fed = false ∧ s.openBoundary.due.abandon = true) := by decide +kernel

/-- A position whose latched feed changes (spoke 5, no bank bound: the carry set empties), and one that keeps none. -/
theorem test_witness_latch_clears :
    (latched .active live).latch.carry[(5 : SpokeId)][(3 : CellPos)].map (·.feed) ≠
      (latched .active live).fabric.carry[(5 : SpokeId)][(3 : CellPos)].map (·.feed) ∧
    live.latch.carry[(5 : SpokeId)][(3 : CellPos)].map (·.feed) =
      live.fabric.carry[(5 : SpokeId)][(3 : CellPos)].map (·.feed) := by decide +kernel

theorem test_witness_latch : live.engine.order.toList.Nodup ∧ live.engine.order[(0 : Fin 32)] = 0 ∧
    live.engine.order[(31 : Fin 32)] = 31 := by decide +kernel

theorem test_witness_relock : ready.reference = .free ∧ ready.mgmtUp = true ∧ 500 ≤ 500 ∧ 499 < 500 ∧
    ready.markerSkipped = false ∧ ({ ready with markerSkipped := true } : State).markerSkipped = true := by decide +kernel

theorem test_witness_port_loss : ready.ports[(5 : PortId)] = true ∧ (5 : PortId) ≠ ready.mgmtPort ∧
    ready.channels[chFeedTrouble].enabled = true ∧ portOf 23 = 5 ∧
    ({ ready with feeds := ready.feeds.set 23 ⟨.active, 0, 0, 0⟩ } : State).feeds[(23 : FeedId)].state = .active ∧
    (∀ f : FeedId, portOf f = 5 → ready.feeds[f].state ≠ .active) ∧
    (∀ f : FeedId, ({ ready with feeds := ready.feeds.set 23 ⟨.active, 0, 0, 0⟩ } : State).activeOf 5 f = true →
      some 22 ≠ some f.val) := by decide +kernel

/-- SILENT_PORT names the ACTIVE feed of the port and not the MUTED one beside it, and another source's entry stays (R6). -/
theorem test_port_loss_names_active :
    let s := withChannel 0 (fun c => { c with list := [⟨some 22, 7, 3, .clip⟩] })
      { ready with feeds := (ready.feeds.set 22 ⟨.muted, 0, 0, 0⟩).set 23 ⟨.active, 0, 0, 0⟩ }
    (match exec (.carrierPortLoss 5) s with
     | .next t => t.channels[chFeedTrouble].list == [⟨some 22, 7, 3, .clip⟩, ⟨some 23, 0, 1, .silentPort⟩]
     | _ => false) = true := by decide +kernel

theorem test_witness_mgmt_loss :
    let s := withLane (fun l => { l with outbound := [.alarm 13 1 1 [⟨some 5, 0, 1, .none⟩]] }) ready
    s.ports[s.mgmtPort] = true ∧ s.lane.resetArmed = false ∧ entriesOf 12 s.lane.outbound = [] ∧
      (12 : ChannelId) ≠ chFeedTrouble ∧ entriesOf 13 s.lane.outbound ≠ [] ∧ s.channels[(13 : ChannelId)].enabled = true := by
  decide +kernel

theorem test_witness_mgmt_loss_armed :
    let s := withLane (fun l => { l with resetArmed := true }) ready
    s.ports[s.mgmtPort] = true ∧ s.lane.resetArmed = true := by decide +kernel

/-- Entries handed back (R135): two of one source become one, at the earlier frame, counts limited, the later detail; a
disabled channel, and one with nothing unsent. -/
theorem test_witness_handed_back :
    mergeEntries [⟨some 5, 7, 200, .clip⟩, ⟨some 4, 8, 1, .none⟩, ⟨some 5, 9, 255, .silentPort⟩] =
      [⟨some 5, 7, 255, .silentPort⟩, ⟨some 4, 8, 1, .none⟩] ∧
    (∀ e ∈ [(⟨some 5, 7, 200, .clip⟩ : SourceEntry), ⟨some 5, 9, 255, .silentPort⟩], e.count ≤ 255) ∧
    (let s := withLane (fun l => { l with outbound := [.alarm 13 1 1 [⟨some 5, 0, 1, .none⟩]] }) ready
     s.ports[s.mgmtPort] = true ∧ s.lane.resetArmed = false ∧ s.channels[(13 : ChannelId)].enabled = true ∧
      entriesOf 13 s.lane.outbound ≠ [] ∧ entriesOf 12 s.lane.outbound = [] ∧
      (withChannel 13 (fun c => { c with enabled := false }) s).channels[(13 : ChannelId)].enabled = false) := by
  decide +kernel

/-! ## Witnesses: raises, isolation, links and reports -/

theorem test_witness_raise :
    (withChannel 0 (fun c => { c with enabled := false }) ready).channels[(0 : ChannelId)].enabled = false ∧
    ready.channels[(15 : ChannelId)].enabled = true ∧ (∀ e ∈ ready.channels[(15 : ChannelId)].list, e.source ≠ some 5) ∧
    (let s := withChannel 15 (fun c => { c with list := [⟨some 4, 0, 1, .none⟩, ⟨some 5, 0, 255, .none⟩] }) ready
     s.channels[(15 : ChannelId)].list = [⟨some 4, 0, 1, .none⟩] ++ (⟨some 5, 0, 255, .none⟩ : SourceEntry) :: []) := by
  decide +kernel

theorem test_witness_isolation :
    (spokeIn .isolated (.isolate .admin) none ready).spokes[(5 : SpokeId)].hold.isolates = true ∧
    live.spokes[(5 : SpokeId)].hold.isolates = false ∧ ready.spokes[(5 : SpokeId)].state ≠ .live ∧
    live.expectedClass 5 = none ∧ (bound3 live).expectedClass 5 = some 1 ∧
    (bound3 live).spokes[(5 : SpokeId)].state = .live ∧ (bound3 live).spokes[(5 : SpokeId)].knownClass ≠ some 1 ∧
    (bound3 (spokeIn .live .none (some 1) ready)).expectedClass 5 =
      (bound3 (spokeIn .live .none (some 1) ready)).spokes[(5 : SpokeId)].knownClass := by decide +kernel

/-- Two conditions that were MEASURING, the last of them at the end of its range. -/
def measuring (s : State) : State :=
  (s.setQual 5 .uplinkOverload ⟨.measuring, true, 0, 0, 0, 7⟩).setQual 5 .opticalLow ⟨.measuring, true, 0, 0, 0, 64 * 65535⟩

/-- Entry to DARK raises DURATION, cut short, in the order of the kinds; a spoke with none measuring raises nothing (R124). -/
theorem test_witness_cut_short :
    ((durationCutShort (measuring live) 5).list.map (·.detail)) = [.duration .opticalLow 65535 3 true] ∧
    ((durationCutShort (measuring live) 5).list.map (·.count)) = [2] ∧
    durationCutShort live 5 = live.channels[(1 : ChannelId)] := by decide +kernel

theorem test_witness_links : ready.spokes[(31 : SpokeId)].state = .dark ∧ ready.links[(31 : SpokeId)].locked = false ∧
    live.spokes[(5 : SpokeId)].state ≠ .dark ∧ live.channels[chLinkLost].enabled = true := by decide +kernel

/-- Spoke 5 LIVE, with its FRAME_ERRORS record. -/
def counting (q : QualRec) : State := live.setQual 5 .frameErrors q

theorem test_witness_link_traffic : (live.links[(5 : SpokeId)].locked = true ∧ live.spokes[(5 : SpokeId)].state ≠ .dark ∧
    (live.settingsOf .frameErrors).mode = .count ∧ 1 < (live.settingsOf .frameErrors).n ∧
    (live.qual 5 .frameErrors).state = .idle) ∧
    ((counting ⟨.armed, false, 7, 1, 0, 0⟩).qual 5 .frameErrors).state = .armed ∧
    ((counting ⟨.armed, false, 7, 1, 0, 0⟩).qual 5 .frameErrors).count + 1 =
      ((counting ⟨.armed, false, 7, 1, 0, 0⟩).settingsOf .frameErrors).n ∧
    ((counting ⟨.qualified, false, 8, 1, 0, 0⟩).qual 5 .frameErrors).state = .qualified ∧
    (live.mapLink 5 fun l => { l with requests := [.hello, .healthPoll] }).links[(5 : SpokeId)].requests =
      .hello :: [.healthPoll] ∧ live.spokes[(5 : SpokeId)].assembly = none ∧
    (∀ a ∈ [[0x5A#8], [0x5A#8, 5#8, 0#8], [0x5A#8, 12#8, 0#8]],
      (withSpoke (fun r => { r with assembly := some a }) live).spokes[(5 : SpokeId)].assembly = some a ∧
      live.links[(5 : SpokeId)].locked = true) ∧
    [0#8].length + 3 < (5#8).toNat ∧ [0#8, 0#8].length + 3 = (5#8).toNat := by decide +kernel

/-- FRAME_ERRORS with other settings. -/
def errorsSet (m : Mode) (n : Nat) (s : State) : State :=
  { s with settings := update s.settings 0 fun st => { st with mode := m, n := n } }

theorem test_witness_errors_qualify :
    (live.links[(5 : SpokeId)].locked = true ∧ live.spokes[(5 : SpokeId)].state ≠ .dark ∧
      ((errorsSet .immediate 1 live).settingsOf .frameErrors).mode = .immediate) ∧
    (((errorsSet .count 1 live).settingsOf .frameErrors).mode = .count ∧
      ((errorsSet .count 1 live).settingsOf .frameErrors).n = 1 ∧ ((errorsSet .count 1 live).qual 5 .frameErrors).state = .idle) ∧
    (let s := counting ⟨.armed, false, 7, 1, 0, 0⟩
     (s.settingsOf .frameErrors).mode = .count ∧ (s.qual 5 .frameErrors).state = .armed ∧
      (s.qual 5 .frameErrors).count + 1 = (s.settingsOf .frameErrors).n) := by decide +kernel

/-- Spoke 5 LIVE, with reports queued and the latch set or clear. -/
def queueing (l : List Report) (latch : Bool) : State := live.mapSpoke 5 fun r => { r with queue := l, overrun := latch }

theorem test_witness_reports : (5 ≤ (5 : Byte).toNat ∧ (12 : Byte).toNat ≤ 12 ∧ ([0, 0, 0] : List Byte).length + 2 = 5) ∧
    ((queueing [.damaged .fault] false).spokes[(5 : SpokeId)].overrun = false ∧
      (queueing [.damaged .fault] false).spokes[(5 : SpokeId)].queue.length < 2) ∧
    (queueing [] true).spokes[(5 : SpokeId)].overrun = true ∧
    2 ≤ (queueing [.damaged .unreadable, .damaged .fault] false).spokes[(5 : SpokeId)].queue.length ∧
    (∀ begun ∈ [none, some [reportLead], some [reportLead, 6#8, 0x03#8]], ∀ more ∈ [[6#8, 0x03#8, 1#8, 0#8, 0#8]],
      let s := withSpoke (fun r => { r with assembly := begun }) (queueing [.damaged .fault] false)
      let bytes := (reportLead :: more).drop (begun.getD []).length
      s.links[(5 : SpokeId)].locked = true ∧ bytes ≠ [] ∧
        s.spokes[(5 : SpokeId)].assembly.getD [] ++ bytes = reportLead :: more) ∧
    (∀ begun ∈ [[], [reportLead]], begun ++ [reportLead, 13#8].drop begun.length = [0x5A#8, 13#8] ∧
      [reportLead, 13#8].drop begun.length ≠ []) ∧
    5 ≤ (6 : Byte).toNat ∧ (6 : Byte).toNat ≤ 12 ∧ [(0x03 : Byte), 1, 0, 0].length + 2 = (6 : Byte).toNat := by decide +kernel

/-- REPORT_LEAD_BYTE begins a report and REPORT_COMPLETE finishes it. -/
theorem test_report_in_two_rows :
    (match exec (.reportLeadByte 5) live with
     | .next s =>
       (match exec (.reportComplete 5 ((withCheck [0x5A, 6, 0x03, 1]).drop 1)) s with
        | .next t => t.spokes[(5 : SpokeId)].queue == [.fault .overheat] && t.spokes[(5 : SpokeId)].assembly.isNone
        | _ => false)
     | _ => false) = true := by decide +kernel

/-- The seven marks (R175) at the edges of their ranges. -/
theorem test_witness_damage : (∀ n ∈ [(0 : Byte), 4, 13, 255], n.toNat < 5 ∨ 12 < n.toNat) ∧
    checkPasses [0x5A, 6, 0x03, 1, 0, 0] = false ∧
    readReport [0x5A, 6, 0x03, 1, 0, 0] = .damaged .fault ∧ readReport (withCheck [0x5A, 6, 0x05, 1]) = .damaged .unreadable ∧
    readReport (withCheck [0x5A, 7, 0x03, 1, 1]) = .damaged .fault ∧
    readReport (withCheck [0x5A, 10, 0x01, 8, 0, 0, 0, 0]) = .damaged .hello ∧
    readReport (withCheck [0x5A, 10, 0x01, 7, 0, 0, 0, 0]) = .hello 7 ∧
    readReport (withCheck [0x5A, 6, 0x04, 6]) = .damaged .clear ∧ readReport (withCheck [0x5A, 6, 0x03, 0]) = .damaged .fault ∧
    readReport (withCheck [0x5A, 9, 0x02, 0, 0, 0, 2]) = .damaged .health := by decide +kernel

/-- A taking left at the boundary in hand, and one report at spoke 5. -/
def taking (n : Nat) (rep : Report) : State := { queueing [rep] false with due := { Due.empty with reports := n } }

theorem test_witness_report_take :
    (0 < (taking 1 (.health 125 (-300) .low)).due.reports ∧ (taking 1 (.health 125 (-300) .low)).nextQueued = some 5 ∧
      (taking 1 (.health 125 (-300) .low)).spokes[(5 : SpokeId)].queue = [.health 125 (-300) .low]) ∧
    (taking 4 (.fault .internal)).nextQueued = some 5 ∧
      (taking 4 (.fault .internal)).spokes[(5 : SpokeId)].queue = [.fault .internal] ∧
    (taking 4 (.clear .overheat)).spokes[(5 : SpokeId)].queue = [.clear .overheat] := by decide +kernel

/-- The search wraps: from position 5, with only spoke 5's queue not empty, the last place of the search finds it; from 31,
spoke 0 is the first place; with every queue empty there is none; no taking is left. -/
theorem test_witness_taker :
    (let s : State := { taking 1 (.damaged .health) with takerPos := 5 }
     s.spokes[s.takerPos + 1 + 31].queue ≠ [] ∧ (∀ j : Fin 32, j < 31 → s.spokes[s.takerPos + 1 + j].queue = [])) ∧
    (let s := ready.mapSpoke 0 fun r => { r with queue := [.hello 2] }
     s.takerPos = 31 ∧ s.spokes[s.takerPos + 1 + 0].queue ≠ []) ∧
    (∀ i : SpokeId, ready.spokes[i].queue = []) ∧ ready.due.reports = 0 ∧
    ((taking 1 (.damaged .fault)).spokes[(5 : SpokeId)].queue = .damaged .fault :: [] ∧
      (taking 1 (.hello 2)).spokes[(5 : SpokeId)].queue = .hello 2 :: [] ∧
      (taking 1 (.hello 2)).spokes[(5 : SpokeId)].state ≠ .training ∧
      (taking 1 (.hello 2)).spokes[(5 : SpokeId)].state ≠ .dark) ∧
    (let s := withSpoke (fun r => { r with state := .training, knownClass := none }) (taking 1 (.hello 2))
     s.nextQueued = some 5 ∧ s.spokes[(5 : SpokeId)].state = .training) := by decide +kernel

theorem test_witness_hello_in_training :
    ((spokeIn .training .none none ready).spokes[(5 : SpokeId)].state = .training ∧
      (spokeIn .training .none none ready).store.nodeClass 2 = none) ∧
    (spokeIn .training (.isolate .admin) none ready).spokes[(5 : SpokeId)].hold.isolates = true ∧
    (spokeIn .training .quiet none ready).spokes[(5 : SpokeId)].hold.isolates = false ∧
    ((entitled ready).store.nodeClass 2).isSome = true ∧
    (spokeIn .training (.isolate .admin) none (entitled ready)).spokes[(5 : SpokeId)].hold.isolates = true ∧
    (spokeIn .training .quiet none (entitled ready)).spokes[(5 : SpokeId)].hold = .quiet ∧
    ((spokeIn .training .none none (entitled ready)).spokes[(5 : SpokeId)].hold = .none ∧
      (spokeIn .training .none none (entitled ready)).expectedClass 5 = none) ∧
    (∃ c, (bound3 (spokeIn .training .none none (entitled ready))).expectedClass 5 = some c ∧ c ≠ 2) :=
  ⟨by decide +kernel, by decide +kernel, by decide +kernel, by decide +kernel, by decide +kernel, by decide +kernel,
    by decide +kernel, 1, by decide +kernel, by decide⟩

/-- A HELLO taken in place: class 2 absent with and without an isolate hold, the known class, and another class. -/
theorem test_witness_hello_in_place :
    (live.spokes[(5 : SpokeId)].state = .live ∧ live.store.nodeClass 2 = none ∧ live.spokes[(5 : SpokeId)].hold.isolates = false ∧
      live.channels[chIsolation].enabled = true) ∧
    (let s := spokeIn .isolated (.isolate .admin) (some 2) (entitled ready)
     s.spokes[(5 : SpokeId)].state ≠ .dark ∧ s.spokes[(5 : SpokeId)].state ≠ .training ∧
      s.spokes[(5 : SpokeId)].hold.isolates = true ∧ s.store.nodeClass 3 = none ∧ (s.store.nodeClass 2).isSome = true ∧
      s.spokes[(5 : SpokeId)].knownClass = some 2 ∧ s.spokes[(5 : SpokeId)].state ≠ .live) ∧
    (let s := spokeIn .live .none (some 2) (entitled ready)
     (s.store.nodeClass 2).isSome = true ∧ s.spokes[(5 : SpokeId)].knownClass = some 2 ∧ s.spokes[(5 : SpokeId)].state = .live) ∧
    (let s := spokeIn .live .none (some 3) (entitled ready)
     s.spokes[(5 : SpokeId)].knownClass ≠ some 2 ∧ s.expectedClass 5 = none ∧ (bound3 s).expectedClass 5 = some 1 ∧
      (bound3 s).spokes[(5 : SpokeId)].hold.isolates = false ∧ (1 : NodeClass) ≠ 2) := by decide +kernel

/-! ## Witnesses: turns of a boundary -/

/-- A boundary in hand with turns left. -/
def dueNow (f : Due → Due) (s : State) : State := { s with due := f s.due }

/-- Spoke 5 in TRAINING with frames counted and its raise due. -/
def training (n : Nat) (h : Hold) : State :=
  dueNow (fun d => { d with train := d.train.set 5 true })
    ((spokeIn .training h none ready).mapSpoke 5 fun r => { r with elapsed := n })

theorem test_witness_training :
    (∀ n ∈ [9, 198, 8], (training n .none).due.train[(5 : SpokeId)] = true ∧
      (training n .none).spokes[(5 : SpokeId)].state = .training ∧
      (training n .none).spokes[(5 : SpokeId)].elapsed + 1 < 200) ∧
    ((training 199 .quiet).due.train[(5 : SpokeId)] = true ∧ (training 199 .quiet).spokes[(5 : SpokeId)].state = .training ∧
      200 ≤ (training 199 .quiet).spokes[(5 : SpokeId)].elapsed + 1 ∧
      (training 199 .quiet).spokes[(5 : SpokeId)].hold.isolates = false ∧
      (training 199 .quiet).channels[chIsolation].enabled = true) ∧
    (training 199 (.isolate .admin)).spokes[(5 : SpokeId)].hold.isolates = true ∧
    (dueNow (fun d => { d with poll := d.poll.set 5 true }) live).due.poll[(5 : SpokeId)] = true := by decide +kernel

/-- Spoke 5 LIVE with its settle report due while a cutover runs. -/
def settling (line : Fin 33) (on : SpokeId) : State :=
  dueNow (fun d => { d with settle := d.settle.set 5 true }) (stepping line (some ⟨on, true, false, 1⟩) live)

theorem test_witness_settle_end : (∀ s ∈ [settling 1 5, settling 4 5, settling 4 6], s.due.settle[(5 : SpokeId)] = true ∧
      s.due.step = false ∧ s.due.reports = 0 ∧ s.spokes[(5 : SpokeId)].state = .live ∧
      s.spokes[(5 : SpokeId)].settle = 0 ∧ s.engine.state = .stepping ∧
      s.engine.params = some ⟨4, 1, 2, false, .command⟩) ∧
    (settling 1 5).engine.line ≠ 4 ∧ (settling 4 5).engine.line = 4 ∧
    (settling 4 6).engine.current = some ⟨6, true, false, 1⟩ ∧ live.channels[chCutoverEnd].enabled = true ∧
    (let s := dueNow (fun d => { d with reports := 1 }) (settling 1 5)
     0 < s.due.reports ∧ (∀ j : SpokeId, s.spokes[j].queue = []) ∧
      (s.mapSpoke 31 fun r => { r with queue := [.damaged .hello] }).spokes[(31 : SpokeId)].queue ≠ []) := by
  decide +kernel

/-- The engine told (R85 to R88): no step, another spoke, a complete step; short of the target; at it with the fold at line
32, and without; HALTING. -/
theorem test_witness_engine_told :
    (stepping 1 none ready).engine.current = none ∧ ready.engine.state = .idle ∧
    (∀ c ∈ [(⟨6, true, false, 1⟩ : CurrentStep), ⟨5, true, true, 1⟩], c.spoke ≠ 5 ∨ c.complete = true) ∧
    (let s := stepping 1 (some ⟨5, true, false, 1⟩) live
     s.engine.current = some ⟨5, true, false, 1⟩ ∧ s.engine.params = some ⟨4, 1, 2, false, .command⟩ ∧
      s.engine.state = .stepping ∧ s.engine.line ≠ 4) ∧
    (let s := withEngine (fun e => { e with params := some ⟨32, 1, 2, true, .relief 7⟩ }) (stepping 32 (some ⟨5, true, false, 1⟩) live)
     s.engine.params = some ⟨32, 1, 2, true, .relief 7⟩ ∧ s.engine.line = 32 ∧ s.channels[chCutoverEnd].enabled = true) ∧
    (let s := withEngine (fun e => { e with params := some ⟨0, 1, 2, true, .command⟩ }) (stepping 0 (some ⟨5, false, false, 1⟩) live)
     s.engine.params = some ⟨0, 1, 2, true, .command⟩ ∧ s.engine.line = 0 ∧ (0 : Fin 33) ≠ 32) ∧
    (withEngine (fun e => { e with state := .halting }) (stepping 1 (some ⟨5, true, false, 1⟩) live)).engine.state = .halting ∧
    (∃ t, live.claim (.spokeRetrain 1 5) = some t ∧ below 32 5 = some 5 ∧ t.spokes[(5 : SpokeId)].state = .live) :=
  ⟨by decide +kernel, by decide +kernel, by decide, by decide +kernel, by decide +kernel, by decide +kernel,
    by decide +kernel, met (by decide +kernel) (by decide +kernel)⟩

/-- Group 7 with its dwell running out. -/
def group7 (st : GroupState) (r : Option Relief) (s : State) : State :=
  dueNow (fun d => { d with groups := d.groups.set 7 true }) { s with groups := s.groups.set 7 ⟨1, 1, 1, 1, r, st, 1, .none⟩ }

theorem test_witness_groups :
    ((group7 .rising none ready).due.groups[(7 : GroupId)] = true ∧
      (group7 .rising none ready).groups[(7 : GroupId)].state = .rising ∧
      (group7 .rising none ready).groups[(7 : GroupId)].relief = none) ∧
    (∀ r ∈ [(⟨32, 255, 63⟩ : Relief), ⟨0, 1, 0⟩], (group7 .rising (some r) ready).groups[(7 : GroupId)].relief = some r) ∧
    ready.engine.state = .idle ∧ (stepping 1 none ready).engine.state ≠ .idle ∧ (0 : Fin 33) = ready.engine.line ∧
    (ready.engine.line < 32 ∧ ready.engine.bankB = none) ∧
    (withEngine (fun e => { e with bankB := some 3 }) (slot3 .ready ready)).engine.bankB ≠ none ∧
    (let e := (withEngine (fun e => { e with line := 32 }) ready).engine
     (0 : Fin 33) < e.line ∧ e.bankA = none ∧ e.state = .idle) ∧
    (let e := (withEngine (fun e => { e with line := 32 }) (bound3 ready)).engine
     (0 : Fin 33) < e.line ∧ e.bankA ≠ none ∧ e.state = .idle) ∧
    ready.channels[chCrowdHigh].enabled = true ∧ ready.channels[chCrowdLow].enabled = true ∧
    ((group7 .falling none ready).due.groups[(7 : GroupId)] = true ∧
      (group7 .falling none ready).groups[(7 : GroupId)].state = .falling) := by decide +kernel

/-- A group with a dwell left, at its end (dwell 1), and with its load returned at the end: where the evaluation leads. -/
theorem test_witness_group_evaluation :
    (let g (st : GroupState) (n : Nat) : Group := ⟨1, 5, 3, 2, none, st, n, .none⟩
     ((g .rising 2).evaluate 6).remaining = 1 ∧ (g .rising 1).turns 6 = true ∧ (g .rising 1).turns 5 = false ∧
      ((g .rising 1).evaluate 5).state = .calm ∧ ((g .falling 2).evaluate 2).remaining = 1 ∧
      (g .falling 1).turns 2 = true ∧ (g .falling 1).turns 3 = false ∧ ((g .falling 1).evaluate 3).state = .crowded ∧
      ((g .calm 0).evaluate 6).remaining = 2 ∧ ((g .crowded 0).evaluate 3).state = .crowded) := by decide

/-- A step due, from a line, toward 4 (or toward 0). -/
def stepDueAt (line target : Fin 33) (s : State) : State :=
  dueNow (fun d => { d with step := true })
    (withEngine (fun e => { e with params := some ⟨target, 1, 2, false, .command⟩ }) (stepping line none s))

theorem test_witness_cutover_step :
    (∀ s ∈ [stepDueAt 0 4 ready, stepDueAt 31 32 ready, stepDueAt 32 0 ready, stepDueAt 5 32 live],
      s.due.step = true ∧ s.engine.state = .stepping ∧ s.engine.params.map (·.target) ≠ some s.engine.line) ∧
    ((0 : Fin 33) < 4 ∧ (stepDueAt 0 4 ready).engine.line.val + 1 ≠ 4 ∧
      (stepDueAt 0 4 ready).spokes[(0 : SpokeId)].state ≠ .live) ∧
    (let s := withEngine (fun e => { e with bankB := none }) (stepDueAt 5 32 live)
     s.spokes[s.engine.order[(5 : Fin 32)]].state = .live ∧
      (s.engine.bankB.bind fun k => (s.slots[k].plan[s.engine.order[(5 : Fin 32)]]).expect) = none ∧
      s.engine.order.toList.Nodup) ∧
    ((31 : Fin 32).val + 1 = (stepDueAt 32 0 ready).engine.line.val ∧
      (stepDueAt 32 0 ready).spokes[(31 : SpokeId)].state ≠ .live) := by decide +kernel

/-- Spoke 5 first or last in the sweep order. -/
def ordered (first : Bool) (s : State) : State :=
  withEngine (fun e => { e with order := if first then (e.order.set 0 5).set 5 0 else (e.order.set 31 5).set 5 31 }) s

/-- The spoke moved (R84, R85) at both ends of the order, up and down: its place, its state, the class expected of it. -/
theorem test_witness_moved_spoke :
    (∀ x ∈ [(true, (0 : Fin 33), (4 : Fin 33), (0 : Fin 32), (1 : Fin 33)), (false, 1, 0, 0, 0)],
      let s := ordered true (stepDueAt x.2.1 x.2.2.1 live)
      s.due.step = true ∧ s.engine.state = .stepping ∧ s.engine.params = some ⟨x.2.2.1, 1, 2, false, .command⟩ ∧
      s.engine.order.toList.Nodup ∧ s.engine.order[x.2.2.2.1] = 5 ∧ s.spokes[(5 : SpokeId)].state = .live ∧
      s.spokes[(5 : SpokeId)].hold.isolates = false ∧ s.channels[chIsolation].enabled = true ∧
      ((if x.1 then s.engine.bankB else s.engine.bankA).bind fun k => (s.slots[k].plan[(5 : SpokeId)]).expect) = some 1 ∧
      s.spokes[(5 : SpokeId)].knownClass ≠ some 1 ∧
      ((x.1 = true ∧ s.engine.line < x.2.2.1 ∧ x.2.2.2.1.val = s.engine.line.val ∧ x.2.2.2.2.val = x.2.2.2.1.val + 1) ∨
        (x.1 = false ∧ x.2.2.1 < s.engine.line ∧ x.2.2.2.1.val + 1 = s.engine.line.val ∧ x.2.2.2.2.val = x.2.2.2.1.val))) ∧
    (∀ x ∈ [(true, (31 : Fin 33), (32 : Fin 33)), (false, 32, 0)],
      let s := withEngine (fun e => { e with params := some ⟨x.2.2, 1, 0, false, .command⟩ })
        (ordered false (stepDueAt x.2.1 x.2.2 (spokeIn .live .none (some 1) ready)))
      s.engine.order[(31 : Fin 32)] = 5 ∧ s.engine.order.toList.Nodup ∧ s.spokes[(5 : SpokeId)].knownClass = some 1 ∧
      s.engine.params.map (·.settle) = some 0 ∧
      ((if x.1 then s.engine.bankB else s.engine.bankA).bind fun k => (s.slots[k].plan[(5 : SpokeId)]).expect) = some 1) ∧
    (ordered true (stepDueAt 0 4 ready)).spokes[(5 : SpokeId)].state ≠ .live := by decide +kernel

theorem test_witness_step_decision :
    let e := (stepping 1 (some ⟨0, true, true, 0⟩) ready).engine
    e.params = some ⟨4, 1, 2, false, .command⟩ ∧ e.state = .stepping ∧ e.line ≠ 4 ∧
      (stepping 4 none ready).engine.line = 4 ∧ (stepping 1 none ready).engine.current = none ∧
      ({ e with state := .halting } : Engine).state ≠ .stepping ∧
      ({ e with current := some ⟨0, true, false, 255⟩ } : Engine).stepDue = false := by decide +kernel

/-- Every spoke's evaluation due. -/
def evaluating (s : State) : State := dueNow (fun d => { d with eval := Vector.replicate 32 true }) s

/-- OPTICAL_LOW on the point of qualifying: 191 of 192 frames held, at -18.1 dBm. -/
def nearlyLow : State :=
  evaluating ((live.setQual 5 .opticalLow ⟨.armed, true, 0, 0, 191, 0⟩).mapSpoke 5 fun r => { r with optical := some (-181) })

theorem test_witness_persist : nearlyLow.due.eval[(5 : SpokeId)] = true ∧
    nearlyLow.spokes[(5 : SpokeId)].state ≠ .dark ∧ nearlyLow.spokes[(5 : SpokeId)].state ≠ .training ∧
    (nearlyLow.settingsOf .opticalLow).mode = .persist ∧ (nearlyLow.qual 5 .opticalLow).state = .armed ∧
    nearlyLow.holds 5 .opticalLow = true ∧ (nearlyLow.qual 5 .opticalLow).held + 1 =
      (nearlyLow.settingsOf .opticalLow).n * unitFrames (nearlyLow.settingsOf .opticalLow).unit ∧
    nearlyLow.channels[kindChannel .opticalLow].enabled = true ∧ (nearlyLow.settingsOf .opticalLow).isolate = false ∧
    (let s : State := { nearlyLow with settings := update nearlyLow.settings 4 fun st => { st with isolate := true } }
     (s.settingsOf .opticalLow).isolate = true ∧ s.spokes[(5 : SpokeId)].hold.isolates = false ∧
      s.holds 5 .opticalLow = true) := by decide +kernel

theorem test_witness_window_end : ∀ st ∈ [QualState.armed, .qualified],
    let s := evaluating (counting ⟨st, false, 1, 1, 0, 0⟩)
    s.due.eval[(5 : SpokeId)] = true ∧ s.spokes[(5 : SpokeId)].state ≠ .dark ∧
      (s.settingsOf .frameErrors).mode = .count ∧ (s.qual 5 .frameErrors).window ≤ 1 ∧
      (s.qual 5 .frameErrors).state = st ∧ ((counting ⟨st, false, 1, 2, 0, 0⟩).qual 5 .frameErrors).window = 2 := by
  decide +kernel

/-- A window of OPTICAL_LOW in COUNT with N of 1 or more that runs out, at an onset and without one (R120). -/
def lastOfWindow (n : Nat) (seen : Bool) : State :=
  let s := evaluating ((live.setQual 5 .opticalLow ⟨.armed, seen, 1, 1, 0, 0⟩).mapSpoke 5 fun r => { r with optical := some (-181) })
  { s with settings := update s.settings 4 fun _ => ⟨.count, n, 2, 1, false, some (-180)⟩ }

theorem test_witness_condition_window_end : ∀ n ∈ [1, 2], ∀ seen ∈ [true, false],
    let s := lastOfWindow n seen
    FaultKind.opticalLow ≠ .frameErrors ∧ s.due.eval[(5 : SpokeId)] = true ∧ s.spokes[(5 : SpokeId)].state ≠ .dark ∧
      (s.settingsOf .opticalLow).mode = .count ∧ (s.qual 5 .opticalLow).state = .armed ∧
      (s.qual 5 .opticalLow).window ≤ 1 ∧ s.holds 5 .opticalLow = true ∧ (s.qual 5 .opticalLow).seen = seen ∧
      s.channels[kindChannel .opticalLow].enabled = true ∧
      (match exec (.qualifierWindowEnd 5 .opticalLow) s with
       | .next t => t.qual 5 .opticalLow == (if seen then ⟨.idle, true, 0, 0, 0, 0⟩
           else ⟨if n = 1 then .qualified else .armed, true, 1, 8, 0, 0⟩)
       | _ => false) = true := by decide +kernel

/-- A spoke whose evaluation is due, with a row of its own and without. -/
theorem test_witness_rest : (evaluating live).due.eval[(5 : SpokeId)] = true ∧
    (evaluating live).evaluationHasRow 5 = false ∧ nearlyLow.evaluationHasRow 5 = true ∧
    live.due.eval[(5 : SpokeId)] = false := by decide +kernel

/-- The modes of a condition kind at the edges of their clauses: each record's evaluation where the condition holds. -/
theorem test_witness_modes :
    (evaluateRecord ⟨.immediate, 1, 1, 0, false, none⟩ true false ⟨.idle, false, 0, 0, 0, 0⟩).qualifies = true ∧
    (evaluateRecord ⟨.persist, 3, 1, 0, false, none⟩ true false ⟨.armed, true, 0, 0, 2, 0⟩).qualifies = true ∧
    (evaluateRecord ⟨.persist, 3, 1, 0, false, none⟩ true false ⟨.armed, true, 0, 0, 1, 0⟩).qualifies = false ∧
    (evaluateRecord ⟨.count, 1, 1, 0, false, none⟩ true false ⟨.armed, false, 0, 1, 0, 0⟩).qualifies = true ∧
    (evaluateRecord ⟨.count, 3, 1, 0, false, none⟩ true false ⟨.armed, false, 2, 2, 0, 0⟩).qualifies = true ∧
    (evaluateRecord ⟨.count, 3, 1, 0, false, none⟩ true false ⟨.armed, true, 2, 2, 0, 0⟩).qualifies = false ∧
    (evaluateRecord ⟨.duration, 1, 1, 0, false, none⟩ false false ⟨.measuring, true, 0, 0, 0, 65535⟩).measured = some 65535 ∧
    (evaluateRecord ⟨.duration, 1, 1, 0, false, none⟩ false true ⟨.measuring, true, 0, 0, 0, 9⟩).measured = some 9 := by decide

/-- A condition kind's evaluation in each of its cases: passed over, qualifying, without an event, measured. -/
theorem test_witness_condition :
    ready.spokes[(5 : SpokeId)].state = .dark ∧ FaultKind.opticalLow ≠ .frameErrors ∧
    nearlyLow.spokes[(5 : SpokeId)].state ≠ .dark ∧
    (evaluateRecord (nearlyLow.settingsOf .opticalLow) true false (nearlyLow.qual 5 .opticalLow)).qualifies = true ∧
    (let e := evaluateRecord (live.settingsOf .opticalLow) false false (live.qual 5 .opticalLow)
     e.qualifies = false ∧ e.measured = none) ∧
    (let e := evaluateRecord ⟨.duration, 1, 1, 3, false, none⟩ false false ⟨.measuring, true, 0, 0, 0, 9⟩
     e.qualifies = false ∧ e.measured = some 10) ∧
    (live.settingsOf .uplinkOverload).level = some 60000 ∧ (live.settingsOf .opticalLow).level = some (-180) ∧
    nearlyLow.spokes[(5 : SpokeId)].optical = some (-181) := by decide +kernel

/-- The Capture Unit changed, its event of the boundary in hand taken or not. -/
def capturing (f : Capture → Capture) (due : Bool) (s : State) : State :=
  dueNow (fun d => { d with capture := due }) { s with capture := f s.capture }

theorem test_witness_capture_turns :
    (let s := capturing (fun u => { u with single := some ⟨31, 3, .raw⟩, continuous := some ⟨⟨31, 3, .raw⟩, 1000, 0⟩ }) true ready
     s.due.capture = true ∧ s.capture.collection = none ∧ s.capture.single = some ⟨31, 3, .raw⟩ ∧
      s.store.locked = false ∧ s.capture.continuous = some ⟨⟨31, 3, .raw⟩, 1000, 0⟩) ∧
    (let s := capturing (fun u => { u with continuous := some ⟨⟨0, 0, .power⟩, 1, 1⟩ }) true ready
     s.capture.single = none ∧ s.capture.continuous = some ⟨⟨0, 0, .power⟩, 1, 1⟩) ∧
    (let s := capturing (fun u => { u with continuous := some ⟨⟨0, 0, .raw⟩, 1, 1⟩ }) true
      { ready with store := { ready.store with locked := true } }
     s.capture.single = none ∧ s.capture.continuous = some ⟨⟨0, 0, .raw⟩, 1, 1⟩ ∧ s.store.locked = true) ∧
    (let c := live.newCollection ⟨5, 0, .power⟩ false
     let s := capturing (fun u => { u with single := some ⟨5, 0, .power⟩, collection := some c }) true live
     s.due.capture = true ∧ s.capture.collection = some c ∧ s.capture.single = some c.target) ∧
    ready.due.capture = false := by decide +kernel

/-- R107's event is one: a collection ends at CAPTURE_COLLECTION_END and, with interval 1, the next begins there; after it a
CAPTURE waits for the next boundary, whatever the rows and the end of the boundary in hand. -/
theorem test_capture_event_is_one :
    (let c := live.newCollection ⟨5, 0, .power⟩ false
     let s := capturing (fun u => { u with single := some ⟨5, 0, .power⟩, collection := some c }) true live
     match exec .captureCollectionEnd s with
     | .next t => t.capture.collection == none && t.capture.single == none && t.due.capture == false &&
         (match exec (.capture 1 5 1 0 0 0) t with
          | .next u => u.capture.single == some ⟨5, 1, .power⟩ && u.closeBoundary.capture.collection == none &&
              (match exec .captureCollectionStart u with
               | .next v => v == u
               | _ => false)
          | _ => false)
     | _ => false) = true ∧
    (let c := live.newCollection ⟨5, 0, .power⟩ true
     let s := capturing (fun u => { u with continuous := some ⟨⟨5, 0, .power⟩, 1, 1⟩, collection := some c }) true
       { live with frame := 9 }
     match exec .captureCollectionEnd s with
     | .next t => t.capture.collection.map (·.frame) == some 9 && t.capture.buffer.map (·.frame) == some 0 &&
         t.capture.continuous == some ⟨⟨5, 0, .power⟩, 1, 1⟩
     | _ => false) = true := by decide +kernel

/-- A single RAW request that the lock bars, beside a continuous one that waits, begins or is barred too. -/
theorem test_witness_capture_barred : ∀ q ∈ [(⟨⟨5, 0, .power⟩, 7, 2⟩ : Continuous), ⟨⟨5, 0, .power⟩, 7, 1⟩, ⟨⟨5, 0, .raw⟩, 7, 1⟩],
    let s := capturing (fun u => { u with single := some ⟨31, 3, .raw⟩, continuous := some q }) true
      { live with store := { live.store with locked := true } }
    (match exec .captureCollectionStart s with
     | .next t => t.capture.single == none &&
         t.capture.collection.map (·.target) == (if q.next = 1 ∧ q.target.kind = .power then some q.target else none) &&
         t.capture.continuous.map (·.next) == (if q.next ≠ 1 then some 1 else if q.target.kind = .power then some 7 else none)
     | _ => false) = true := by decide +kernel

/-- The results of a collection at full scale: POWER, and RAW with one sample arrived, of a spoke that left LIVE (R108, R109). -/
theorem test_witness_capture_results :
    (let c : Collection := { live.newCollection ⟨5, 0, .power⟩ true with
       powerSum := 2 * (2 * 32767 ^ 2), samplesSeen := 2, powerPeak := 2 * 32767 ^ 2 }
     match exec .captureCollectionEnd (capturing (fun u => { u with collection := some c }) true live) with
     | .next t => t.capture.buffer == some ⟨⟨5, 0, .power⟩, 0, false, true, true, .power 65535 65535 none⟩
     | _ => false) = true ∧
    (let c : Collection := { live.newCollection ⟨5, 0, .raw⟩ false with firstSamples := [⟨1, -1⟩] }
     match exec (.spokeLinkLoss 5) (capturing (fun u => { u with collection := some c }) true live) with
     | .next t =>
       (match exec .captureCollectionEnd t with
        | .next u => u.capture.buffer ==
            some ⟨⟨5, 0, .raw⟩, 0, false, false, false, .raw (⟨1, -1⟩ :: List.replicate 31 ⟨0, 0⟩)⟩
        | _ => false)
     | _ => false) = true := by decide +kernel

/-- A collection whose samples arrive, with its link unlocked or in a damaged group. -/
theorem test_witness_capture_taps :
    (let s := capturing (fun u => { u with collection := some (live.newCollection ⟨5, 0, .raw⟩ false) }) false live
     s.capture.collection = some (live.newCollection ⟨5, 0, .raw⟩ false) ∧ s.links[(5 : SpokeId)].locked = true ∧
      s.links[(5 : SpokeId)].damaged = 0 ∧ ready.links[(5 : SpokeId)].locked = false ∧
      0 < (s.mapLink 5 fun l => { l with damaged := 1 }).links[(5 : SpokeId)].damaged) := by decide +kernel

theorem test_witness_departures : live.spokes[(5 : SpokeId)].state = .live ∧
    (∃ t, live.claim (.spokeIsolate 1 5) = some t ∧ t.spokes[(5 : SpokeId)].state = .live ∧
      t.spokes[(5 : SpokeId)].hold.isolates = false) ∧
    (∃ t, live.claim (.spokeQuiet 1 5) = some t ∧ t.spokes[(5 : SpokeId)].state = .live) :=
  ⟨by decide +kernel, met (by decide +kernel) (by decide +kernel), met (by decide +kernel) (by decide +kernel)⟩

theorem test_witness_store_ends : ∀ e ∈ [StoreEngine.reading, .erasing 3, .writing 15 (.nodeClass ⟨0, 1, 0⟩), .locking],
    let s : State := { ready with store := { ready.store with engine := e } }
    s.store.left = 0 ∧ s.store.engine = e ∧ s.channels[chStoreEnd].enabled = true := by decide +kernel

/-- The four conditions a record can be in as the start-up read ends: VALID on an INTACT page and on a TORN one, SPOILED,
BLANK. -/
theorem test_witness_present :
    let s : State := { ready with store := { ready.store with
      records := ((ready.store.records.set 15 (.valid (.nodeClass ⟨0, 1, 0⟩))).set 3 (.valid (.operator ⟨0, 0, 1⟩))).set 4 .spoiled
      intact := ready.store.intact.set 0 false } }
    s.store.records[(15 : RecordId)] = .valid (.nodeClass ⟨0, 1, 0⟩) ∧ s.store.intact[pageOf 15] = true ∧
    s.store.records[(3 : RecordId)] = .valid (.operator ⟨0, 0, 1⟩) ∧ s.store.intact[pageOf 3] = false ∧
    s.store.records[(4 : RecordId)] = .spoiled ∧ s.store.records[(5 : RecordId)] = .blank := by decide +kernel

/-! ## Witnesses: the lane -/

theorem test_witness_inbound :
    (dueNow (fun d => { d with abandon := true }) ready).due.abandon = true ∧
    (let s := withLane (fun l => { l with received := 255 }) ready
     s.mgmtUp = true ∧ s.lane.received < 256 ∧ s.due.abandon = false ∧ s.lane.assembly = none) ∧
    (let s := dueNow (fun d => { d with abandon := true }) (withLane (fun l => { l with assembly := some [0xC3#8] }) ready)
     s.mgmtUp = true ∧ s.lane.received < 256 ∧ (if s.due.abandon then none else s.lane.assembly) = none) ∧
    ([0x7D#8].length + 3 < (6#8).toNat ∧ ([] : List Byte).length + 3 < (64#8).toNat) ∧
    (withLane (fun l => { l with assembly := some [0xC3#8] }) ready).lane.assembly = some [0xC3#8] ∧
    ((5 : Byte).toNat < 6 ∧ 64 < (65 : Byte).toNat ∧ 6 ≤ (6 : Byte).toNat ∧ (64 : Byte).toNat ≤ 64) := by decide +kernel

/-- Messages the Intake meets: a command, one marked UNKNOWN, a RESYNC, a failed check, a kind that is not COMMAND. -/
def metMessages : List (List Byte) :=
  [(Instr.halt 9).messageBytes, (Instr.commandUnknown 9 0x3F#6).messageBytes, [0xC3, 0x06, 0x7C, 0x30, 0x65, 0x7F],
    [0xC3, 0x06, 0x7D, 0x07, 0x10, 0xFB], envelope 2#2 0x2B#6 9 (List.replicate 58 0)]

/-- Every message of those comes in two parts, cut after each number of bytes: begun, and the rest; and whole after a starved
assembly. -/
theorem test_witness_message_parts : ∀ bytes ∈ metMessages, ∀ cut ∈ [0, 1, 2, 5],
    let begun := bytes.take cut
    let s := withLane (fun l => { l with assembly := if cut = 0 then none else some begun }) ready
    let starved := dueNow (fun d => { d with abandon := true }) (withLane (fun l => { l with assembly := some [0xC3#8] }) ready)
    (if s.due.abandon then [] else s.lane.assembly.getD []) = begun ∧ begun ++ bytes.drop cut = bytes ∧
    bytes.drop cut ≠ [] ∧ s.lane.received + (bytes.drop cut).length ≤ 256 ∧ s.mgmtUp = true ∧
    (if starved.due.abandon then [] else starved.lane.assembly.getD []) = [] := by decide +kernel

/-- The last byte of a message completes it: INBOUND_BYTE after five, COMMAND_COMPLETE after two. -/
theorem test_message_in_parts :
    let bytes := (Instr.halt 9).messageBytes
    let s (n : Nat) := withLane (fun l => { l with assembly := some (bytes.take n), intake := [.fold 1] }) ready
    (match exec (.inboundByte (bytes.getD 5 0)) (s 5) with
     | .next t => t.lane.intake == [.fold 1, .halt 9] && t.lane.assembly.isNone && t.lane.received == 1
     | _ => false) = true ∧
    (match exec (.commandComplete (bytes.drop 2)) (s 2) with
     | .next t => t.lane.intake == [.fold 1, .halt 9] && t.lane.assembly.isNone && t.lane.received == 4
     | _ => false) = true := by decide +kernel

theorem test_witness_message_sorted :
    (∀ bytes ∈ metMessages, bytes[0]? = some 0xC3#8 ∧ 6 ≤ bytes.length ∧ bytes.length ≤ 64 ∧
      bytes[1]? = some (BitVec.ofNat 8 bytes.length) ∧ ready.lane.received + bytes.length ≤ 256) ∧
    metMessages.map commandIn = [some (.halt 9), some (.commandUnknown 9 0x3F#6), some (.resync 0x30), none, none] ∧
    (Instr.halt 9).wf = true ∧ (Instr.halt 9).header.isSome = true ∧
    ready.mgmtUp = true ∧ ready.lane.assembly = none ∧ ready.due.abandon = false ∧
    (let s := withLane (fun l => { l with intake := [.fold 1] }) ready
     s.lane.overrun = false ∧ s.lane.intake.length < 2) ∧
    (let s := withLane (fun l => { l with intake := [.fold 1, .fold 2] }) ready
     s.lane.overrun = false ∧ 2 ≤ s.lane.intake.length ∧ s.channels[chIntakeOverrun].enabled = true ∧
      (match exec (.commandComplete (Instr.halt 9).messageBytes) s with
       | .next t => t.channels[chIntakeOverrun].list == [⟨none, 0, 1, .discardedTag 9⟩]
       | _ => false) = true) ∧
    (withLane (fun l => { l with overrun := true }) ready).lane.overrun = true := by decide +kernel

theorem test_witness_command_is_no_resync : ∀ tag, Instr.halt 9 ≠ .resync tag := fun _ h => (nomatch h)

theorem test_witness_outbound :
    (let m : Message := .response 1 0x3D#6 .done []
     let s := withLane (fun l => { l with outbound := List.replicate 7 m, held := some m }) ready
     s.mgmtUp = true ∧ s.lane.outbound.length < 8 ∧ s.lane.held = some m ∧ s.lane.holder = none ∧
      (withLane (fun l => { l with holder := some m }) ready).lane.holder = some m) ∧
    (let m : Message := .response 1 0x3E#6 .done []
     let s := withLane (fun l => { l with outbound := [m], sent := 249 }) ready
     s.mgmtUp = true ∧ s.lane.outbound = m :: [] ∧ s.lane.sent + (m.bytes.length - s.lane.headSent) ≤ 256 ∧
      s.lane.resetAtHead = false ∧ (withLane (fun l => { l with resetArmed := true }) s).lane.resetAtHead = true) := by
  decide +kernel

theorem test_witness_notices :
    (let s := withChannel 15 (fun c => { c with masked := false, list := [⟨some 5, 0, 1, .none⟩] })
      (withLane (fun l => { l with outbound := List.replicate 5 (.response 0 0x3D#6 .done []) }) ready)
     s.mgmtUp = true ∧ s.lane.holder = none ∧ s.lane.held = none ∧ s.chosen = some 15 ∧
      partsOf s.channels[(15 : ChannelId)].list + 2 ≤ 8 - s.lane.outbound.length ∧ s.lane.turn = .alarm) ∧
    (let r : Result := ⟨⟨31, 3, .power⟩, 0, true, false, true, .power 0 0 none⟩
     let s := capturing (fun u => { u with buffer := some r }) false
      (withLane (fun l => { l with outbound := List.replicate 5 (.response 0 0x3D#6 .done []) }) ready)
     s.capture.buffer = some r ∧ 3 ≤ 8 - s.lane.outbound.length ∧ s.chosen = none) := by decide +kernel

/-- The chosen channel: the highest of two; none at or below a channel in service while tracking is on; with it off, again
the highest; and no masked one (R132). -/
theorem test_witness_chosen :
    (let give (c : ChannelId) := withChannel c fun ch => { ch with masked := false, list := [⟨some 5, 0, 1, .none⟩] }
     let s := give 4 (give 9 ready)
     let busy := withChannel 9 (fun ch => { ch with inService := true }) s
     s.chosen = some 9 ∧ busy.chosen = none ∧ ({ busy with tracking := false } : State).chosen = some 9 ∧
      (withChannel 4 (fun ch => { ch with inService := true }) s).chosen = some 9 ∧
      (withChannel 9 (fun ch => { ch with masked := true }) s).chosen = some 4) := by decide +kernel

/-- Lists of 6, 7 and 32 entries: one part, two with one entry in the second, six with two in the sixth (R133). -/
theorem test_witness_parts :
    (let l (n : Nat) : List SourceEntry := (List.range n).map fun k => ⟨some k, 0, 1, .none⟩
     noticeMessages 13 (l 6) = [.alarm 13 1 1 (l 6)] ∧ (noticeMessages 13 (l 7)).length = 2 ∧
      (noticeMessages 13 (l 7))[1]? = some (.alarm 13 2 2 [⟨some 6, 0, 1, .none⟩]) ∧ partsOf (l 32) = 6 ∧
      (noticeMessages 13 (l 32))[5]? = some (.alarm 13 6 6 [⟨some 30, 0, 1, .none⟩, ⟨some 31, 0, 1, .none⟩]) ∧
      noticeMessages 13 [] = []) := by decide +kernel

theorem test_witness_taking :
    (ready.lane.held = none ∧ ready.lane.resetArmed = false ∧ ready.store.engine ≠ .reading ∧ ready.lane.intake = [] ∧
      ready.mgmtUp = true ∧ ready.lane.assembly = none ∧ ready.lane.overrun = false ∧ (Instr.halt 1).messageBytes.length = 6 ∧
      (withLane (fun l => { l with received := 250 }) ready).lane.received + 6 ≤ 256) ∧
    (Instr.planCell 1 0 (List.replicate 8 ⟨0, 0, 0, 0, 0⟩)).messageBytes.length ≤ 64 ∧
    (dueNow (fun d => { d with abandon := true }) (withLane (fun l => { l with assembly := some [0xC3#8] }) ready)).due.abandon =
      true ∧
    (withLane (fun l => { l with intake := [.fold 1] }) ready).lane.intake = .fold 1 :: [] ∧ Instr.fold 1 ≠ .halt 1 ∧
    (State.reset.store.engine = .reading ∧ runsAtStartup (.halt 1) = false ∧ runsAtStartup (.hubStatus 1) = true ∧
      State.reset.lane.held = none ∧ State.reset.lane.resetArmed = false ∧
      (withLane (fun l => { l with intake := [.hubStatus 1] }) State.reset).lane.intake = .hubStatus 1 :: []) ∧
    (State.reset.mgmtUp = false ∧ 8 ≤ (full ready).lane.outbound.length ∧ (full ready).mgmtUp = true) ∧
    isCommandCode 0x00#6 = false ∧ isCommandCode 0x3E#6 = true := by decide +kernel

theorem test_witness_marked : (∃ t, ready.claim (.commandUnknown 1 0x3F#6) = some t ∧ isCommandCode 0x3F#6 = false) ∧
    ∃ t, ready.claim (.commandMalformed 1 0x01#6) = some t ∧ isCommandCode 0x01#6 = true :=
  ⟨met (by decide +kernel) (by decide), met (by decide +kernel) (by decide)⟩

/-! ## Witnesses: commands -/

theorem test_witness_reads : below 24 23 = some 23 ∧ below 32 31 = some 31 ∧ below 8 7 = some 7 ∧ below 16 15 = some 15 ∧
    faultKindOf 4 = some .opticalLow ∧ readAll (below 32) [0, 31] = some [0, 31] ∧
    (∀ v ∈ [0, 65535], v ≤ 65535) := by decide

/-- Lists of meters of even and odd length, samples at the ends of their range, and part numbers. -/
theorem test_witness_layouts :
    (let l : List Meter := [⟨65535, true⟩, ⟨0, false⟩, ⟨4096, true⟩]
     l.length ≤ 32 ∧ (∀ m ∈ l, m.value ≤ 65535) ∧ l[2 * 0]? = some ⟨65535, true⟩ ∧ l[2 * 0 + 1]? = some ⟨0, false⟩ ∧
      l[2 * 1]? = some ⟨4096, true⟩ ∧ l.length = 2 * 1 + 1) ∧
    (let l : List Sample := List.replicate 31 ⟨0, 0⟩ ++ [⟨-32768, 32767⟩]
     l.length = 32 ∧ (∀ x ∈ l, -32768 ≤ x.i ∧ x.i ≤ 32767 ∧ -32768 ≤ x.q ∧ x.q ≤ 32767) ∧ l[2 * 15]? = some ⟨0, 0⟩ ∧
      l[2 * 15 + 1]? = some ⟨-32768, 32767⟩) ∧
    1 ≤ 1 ∧ 1 ≤ 6 ∧ 6 ≤ 6 := by decide +kernel

/-- METER READ's body of three meters at shift 4, and the first group of a RAW part at shift 0. -/
theorem test_packed :
    meterBody [⟨65535, true⟩, ⟨0, false⟩, ⟨4096, true⟩] = [4, 0, 0, 0, 5, 0xFF, 0xF0, 0x00, 0x10, 0x00] ∧
    (rawPart (⟨-32, 31⟩ :: ⟨1, -1⟩ :: List.replicate 30 ⟨0, 0⟩)).take 4 = [0, 0x81, 0xF0, 0x7F] := by decide +kernel

/-- An ALARM notice of one entry, up to its check: LINK_LOST of S5 in frame 0x0102, part 1 of 1. -/
theorem test_alarm_notice : (Message.alarm 15 1 1 [⟨some 5, 0x0102#16, 1, .none⟩]).bytes.take 14 =
    [0xC3, 16, 0xC1, 0, 15, 0x11, 5, 1, 2, 1, 0, 0, 0, 0] := by decide +kernel

theorem test_witness_store_read :
    (let s : State := { ready with store := { ready.store with
        records := ready.store.records.set 15 (.valid (.nodeClass ⟨0, 1, 0⟩)) } }
     s.store.records[(15 : RecordId)] = .valid (.nodeClass ⟨0, 1, 0⟩)) ∧ ready.store.records[(0 : RecordId)] = .blank ∧
    (let s : State := { ready with store := { ready.store with records := ready.store.records.set 15 .spoiled } }
     s.store.records[(15 : RecordId)] = .spoiled) := by decide +kernel

theorem test_witness_out_of_range : 24 ≤ (24 : Byte).toNat ∧ 32 ≤ (32 : Byte).toNat ∧ 8 ≤ (8 : Byte).toNat ∧
    4 ≤ (4 : Byte).toNat ∧ 2 ≤ (2 : Byte).toNat ∧ 5 ≤ (5 : Byte).toNat ∧ 16 ≤ (16 : Byte).toNat ∧
    readAll (below 32) [0, 32] = none ∧
    (∃ e ∈ [(⟨0x65, 23, 0, 0, 0⟩ : CellEntry), ⟨0x65, 24, 0, 0, 0⟩], e.place.msb = false ∧ 24 ≤ e.feed.toNat) ∧
    (∃ p ∈ [(⟨31, 7⟩ : ExpectPair), ⟨32, 7⟩], 32 ≤ p.spoke.toNat) ∧
    (List.replicate 31 (0 : Byte) ++ [32]).length = 32 ∧ (∃ x ∈ List.replicate 31 (0 : Byte) ++ [32], 32 ≤ x.toNat) := by
  decide

/-- The ranges of the operands that a parser reads, at both sides of each edge (R170). -/
theorem test_witness_ranges :
    (feedSetOf 23 2 7 15 80 ≠ none ∧ feedSetOf 24 2 7 15 80 = none ∧ feedSetOf 23 3 7 15 80 = none ∧
      feedSetOf 23 2 8 15 80 = none ∧ feedSetOf 23 2 7 16 80 = none ∧ feedSetOf 23 2 7 15 81 = none) ∧
    (targetOf 31 3 1 ≠ none ∧ targetOf 32 3 1 = none ∧ targetOf 31 4 1 = none ∧ targetOf 31 3 2 = none) ∧
    (captureModeOf 1 0 = none ∧ captureModeOf 1 1 = some (some 1) ∧ captureModeOf 1 1000 = some (some 1000) ∧
      captureModeOf 1 1001 = none ∧ captureModeOf 0 1001 = some none ∧ captureModeOf 2 1 = none) ∧
    (qualifyOf 4 3 255 255 3 1 0xFED4 ≠ none ∧ qualifyOf 4 3 255 255 3 1 0xFED3 = none ∧ qualifyOf 4 3 1 1 0 0 51 = none ∧
      qualifyOf 5 0 1 1 0 0 0 = none ∧ qualifyOf 4 4 1 1 0 0 0 = none ∧ qualifyOf 4 0 0 1 0 0 0 = none ∧
      qualifyOf 4 0 1 0 0 0 0 = none ∧ qualifyOf 4 0 1 1 4 0 0 = none ∧ qualifyOf 4 0 1 1 0 2 0 = none ∧
      qualifyOf 0 3 1 1 0 0 0 = none ∧ qualifyOf 1 0 1 1 0 0 0xFFFF ≠ none) ∧
    (storeWriteOf 0 63 0 0 1 ≠ none ∧ storeWriteOf 0 63 0 0 0 = none ∧ storeWriteOf 7 63 0 0 33 = none ∧
      storeWriteOf 8 63 0 1 80 ≠ none ∧ storeWriteOf 15 0 0 5 80 = none ∧ storeWriteOf 15 0 0 0 80 = none ∧
      storeWriteOf 15 0 0 4 81 = none ∧ storeWriteOf 16 0 0 4 80 = none) ∧
    (paramsOf 32 255 63 1 = some ⟨32, 255, 63, true, .command⟩ ∧ paramsOf 33 1 0 0 = none ∧ paramsOf 0 0 0 0 = none ∧
      paramsOf 0 1 64 0 = none ∧ paramsOf 0 1 0 2 = none) ∧
    (reliefOf 0 33 0 64 = some none ∧ reliefOf 1 32 255 63 = some (some ⟨32, 255, 63⟩) ∧ reliefOf 1 33 1 0 = none ∧
      reliefOf 1 0 0 0 = none ∧ reliefOf 1 0 1 64 = none ∧ reliefOf 2 0 1 0 = none) := by decide

/-- Lists of 32 numbers that are no sweep order: one number twice, one of 32. -/
theorem test_witness_no_order : (List.replicate 32 (0 : Byte)).length = 32 ∧
    Machine.orderOf (List.replicate 32 0) = none ∧
    Machine.orderOf (32 :: (List.range 31).map fun n => BitVec.ofNat 8 n) = none := by decide +kernel

theorem test_witness_feed_set :
    (∃ t, ready.claim (.feedSet 1 24 0 0 0 0) = some t ∧ feedSetOf 24 0 0 0 0 = none) ∧
    (∃ t, ready.claim (.feedSet 1 23 0 0 0 80) = some t ∧ feedSetOf 23 0 0 0 80 = some (23, ⟨.unused, 0, 0, 80⟩) ∧
      t.feedBound 23 = false) ∧
    (∃ t, ready.claim (.feedSet 1 12 1 2 5 60) = some t ∧ feedSetOf 12 1 2 5 60 = some (12, ⟨.active, 2, 5, 60⟩) ∧
      t.feedBound 12 = false ∧ t.permits 12 ⟨.active, 2, 5, 60⟩ = false) ∧
    (∃ t, (entitled ready).claim (.feedSet 1 12 1 2 5 60) = some t ∧ t.permits 12 ⟨.active, 2, 5, 60⟩ = true) := by
  refine ⟨?_, ?_, ?_, ?_⟩ <;> exact met (by decide +kernel) (by decide +kernel)

/-- Feed 12 named by the bound plan of slot 3. -/
def carrying (s : State) : State :=
  let s := bound3 s
  { s with slots := update s.slots 3 fun v => { v with plan := v.plan.writeCell (5, 3, some ⟨12, 12, 0, 255⟩) } }

theorem test_witness_feed_bound : ∃ t, (carrying ready).claim (.feedSet 1 12 1 2 5 60) = some t ∧ t.feedBound 12 = true ∧
    t.feeds[(12 : FeedId)].mutesOnly ⟨.active, 2, 5, 60⟩ = false ∧ t.feeds[(12 : FeedId)].mutesOnly ⟨.unused, 0, 0, 0⟩ = true :=
  met (by decide +kernel) (by decide +kernel)

/-- What FEED SET's and STORE ERASE's checks read, met and not met: the bound plan's feed 12, whose operator is 0 until it
is entitled; ACTIVE to MUTED, and not to UNUSED or another band. -/
theorem test_witness_checks :
    (carrying ready).feedBound 12 = true ∧ (carrying ready).feedBound 11 = false ∧
    (entitled ready).permits 12 ⟨.active, 2, 5, 60⟩ = true ∧ (entitled ready).permits 12 ⟨.active, 2, 6, 60⟩ = false ∧
    (entitled ready).permits 11 ⟨.active, 2, 5, 60⟩ = false ∧
    (let r : FeedRec := ⟨.active, 2, 5, 60⟩
     r.mutesOnly r = true ∧ r.mutesOnly { r with state := .muted } = true ∧ r.mutesOnly { r with state := .unused } = false ∧
      r.mutesOnly { r with state := .muted, band := 6 } = false) ∧
    (carrying ready).pageInUse 0 = true ∧ (carrying ready).pageInUse 1 = false ∧ (carrying ready).pageInUse 2 = true ∧
    (carrying ready).pageInUse 3 = false ∧ ready.pageInUse 0 = false ∧ live.pageInUse 2 = true := by decide +kernel

theorem test_witness_isolate_quiet : (∃ t, live.claim (.spokeIsolate 1 5) = some t ∧ below 32 5 = some 5 ∧
      t.engine.current = none ∧ t.spokes[(5 : SpokeId)].hold.isolates = false ∧ t.spokes[(5 : SpokeId)].state = .live) ∧
    (∃ t, (spokeIn .isolated (.isolate .admin) none ready).claim (.spokeQuiet 1 5) = some t ∧
      t.spokes[(5 : SpokeId)].hold.isolates = true) ∧
    (∃ t, ready.claim (.spokeQuiet 1 31) = some t ∧ below 32 31 = some 31 ∧ t.spokes[(31 : SpokeId)].state ≠ .live) := by
  refine ⟨?_, ?_, ?_⟩ <;> exact met (by decide +kernel) (by decide +kernel)

theorem test_witness_restore :
    (∃ t, live.claim (.spokeRestore 1 5) = some t ∧ t.spokes[(5 : SpokeId)].hold.isolates = false) ∧
    (∃ t, (spokeIn .isolated (.isolate .admin) (some 2) ready).claim (.spokeRestore 1 5) = some t ∧
      t.spokes[(5 : SpokeId)].hold.isolates = true ∧ t.spokes[(5 : SpokeId)].state = .isolated ∧
      t.spokes[(5 : SpokeId)].knownClass ≠ none ∧ t.expectedClass 5 = none) ∧
    (∃ t, (spokeIn .isolated (.isolate .admin) none ready).claim (.spokeRestore 1 5) = some t ∧
      t.spokes[(5 : SpokeId)].knownClass = none) ∧
    (∃ t, (spokeIn .training (.isolate .admin) none ready).claim (.spokeRestore 1 5) = some t ∧
      t.spokes[(5 : SpokeId)].hold.isolates = true ∧ t.spokes[(5 : SpokeId)].state ≠ .isolated) ∧
    (∃ t, (bound3 (spokeIn .isolated (.isolate .admin) (some 2) ready)).claim (.spokeRestore 1 5) = some t ∧
      t.spokes[(5 : SpokeId)].hold.isolates = true ∧ t.spokes[(5 : SpokeId)].state = .isolated ∧
      t.expectedClass 5 = some 1 ∧ t.spokes[(5 : SpokeId)].knownClass ≠ some 1) := by
  refine ⟨?_, ?_, ?_, ?_, ?_⟩ <;> exact met (by decide +kernel) (by decide +kernel)

theorem test_witness_wake :
    (∃ t, ready.claim (.spokeWake 1 32) = some t ∧ 32 ≤ (32 : Byte).toNat) ∧
    (∃ t, (spokeIn .quiet .quiet (some 2) ready).claim (.spokeWake 1 5) = some t ∧ t.spokes[(5 : SpokeId)].state = .quiet ∧
      t.spokes[(5 : SpokeId)].hold = .quiet ∧ t.expectedClass 5 = none) ∧
    (∃ t, (bound3 (spokeIn .quiet .quiet (some 2) ready)).claim (.spokeWake 1 5) = some t ∧ t.expectedClass 5 = some 1 ∧
      t.spokes[(5 : SpokeId)].knownClass ≠ some 1) ∧
    (∃ t, (spokeIn .training .quiet none ready).claim (.spokeWake 1 5) = some t ∧
      t.spokes[(5 : SpokeId)].state = .training ∧ t.spokes[(5 : SpokeId)].hold = .quiet) ∧
    (∃ t, live.claim (.spokeWake 1 5) = some t ∧ t.spokes[(5 : SpokeId)].state = .live) := by
  refine ⟨?_, ?_, ?_, ?_, ?_⟩ <;> exact met (by decide +kernel) (by decide +kernel)

theorem test_witness_rearm_poll :
    (∃ t, (queueing [] true).claim (.spokeRearm 1 5) = some t ∧ t.spokes[(5 : SpokeId)].overrun = true) ∧
    (∃ t, live.claim (.spokeRearm 1 5) = some t ∧ t.spokes[(5 : SpokeId)].overrun = false) ∧
    (∃ t, live.claim (.pollSet 1 9) = some t ∧ ((9 : Half).toNat < 10 ∧ 1000 < (1001 : Half).toNat)) ∧
    (∃ t, live.claim (.pollSet 1 1000) = some t ∧ (10 ≤ (10 : Half).toNat ∧ (1000 : Half).toNat ≤ 1000)) := by
  refine ⟨?_, ?_, ?_, ?_⟩ <;> exact met (by decide +kernel) (by decide +kernel)

theorem test_witness_plan_drop_open :
    (∃ t, (bound3 ready).claim (.planDrop 1 3) = some t ∧ below 8 3 = some 3 ∧ t.engine.holds 3 = true) ∧
    (∃ t, (pointed .dl ⟨none, none⟩).claim (.planOpen 1 3) = some t ∧ t.engine.holds 3 = false ∧
      t.pointer.map (·.slot) = some 3) ∧
    (∃ t, (pointed .dl ⟨none, none⟩).claim (.planDrop 1 7) = some t ∧ below 8 7 = some 7 ∧ t.engine.holds 7 = false ∧
      t.pointer.map (·.slot) ≠ some 7) := by
  refine ⟨?_, ?_, ?_⟩ <;> exact met (by decide +kernel) (by decide +kernel)

theorem test_witness_plan_edit_close :
    (∃ t, (slot3 .loading ready).claim (.planEdit 1 3) = some t ∧ t.slots[(3 : SlotId)].state = .loading) ∧
    (∃ t, (bound3 ready).claim (.planEdit 1 3) = some t ∧ t.slots[(3 : SlotId)].state = .ready ∧ t.engine.holds 3 = true) ∧
    (∃ t, (slot3 .rejected ready).claim (.planEdit 1 3) = some t ∧ t.slots[(3 : SlotId)].state = .rejected ∧
      t.engine.holds 3 = false) ∧
    (∃ t, ready.claim (.planClose 1 3) = some t ∧ t.slots[(3 : SlotId)].state ≠ .loading) ∧
    (∃ t, ({ ready with slots := ready.slots.set 3 ⟨.loading, Plan.empty, none⟩ } : State).claim (.planClose 1 3) = some t ∧
      t.slots[(3 : SlotId)].state = .loading ∧ t.admission true t.slots[(3 : SlotId)].plan = none) ∧
    (∃ t, (slot3 .loading ready).claim (.planClose 1 3) = some t ∧
      t.admission true t.slots[(3 : SlotId)].plan = some ⟨5, none, .classAbsent⟩) := by
  refine ⟨?_, ?_, ?_, ?_, ?_, ?_⟩ <;> exact met (by decide +kernel) (by decide +kernel)

theorem test_witness_plan_entries :
    (∃ t, (slot3 .loading ready).claim (.planCell 1 3 [⟨0x65, 24, 0, 0, 0⟩]) = some t ∧
      readAll cellOf [⟨0x65, 24, 0, 0, 0⟩] = none) ∧
    (∃ t, (slot3 .loading ready).claim (.planCell 1 3 [⟨0x65, 23, 63, 63, 255⟩, ⟨0xE5, 0xFF, 0, 0, 0⟩]) = some t ∧
      t.slots[(3 : SlotId)].state = .loading ∧
      readAll cellOf [⟨0x65, 23, 63, 63, 255⟩, ⟨0xE5, 0xFF, 0, 0, 0⟩] =
        some ([(5, 3, some ⟨23, 63, 63, 255⟩)] ++ (5, 3, none) :: [])) ∧
    (∃ t, ready.claim (.planExpect 1 3 [⟨31, 7⟩]) = some t ∧ readAll pairOf [⟨31, 7⟩] = some [(31, some 7)] ∧
      t.slots[(3 : SlotId)].state ≠ .loading) ∧
    readAll pairOf [⟨31, 0xFF⟩, ⟨0, 8⟩] = none := by
  refine ⟨?_, ?_, ?_, by decide⟩ <;> exact met (by decide +kernel) (by decide +kernel)

/-- A plan that passes: spoke 5 of class 2 carries feed 12 at code 12, level 60. -/
def goodPlan : Plan := Plan.empty.set 5 ⟨some 2, noCells.set 3 (some ⟨12, 12, 0, 0⟩)⟩

/-- Slot 3 READY with that plan, its feed in the table. -/
def admitted : State :=
  let s := entitled ready
  { s with feeds := s.feeds.set 12 ⟨.active, 2, 5, 60⟩, slots := s.slots.set 3 ⟨.ready, goodPlan, none⟩ }

theorem test_witness_admission : admitted.admission true goodPlan = none ∧
    goodPlan[(5 : SpokeId)].cells[(3 : CellPos)] = some ⟨12, 12, 0, 0⟩ := by decide +kernel

/-- The first failure found, for each reason, with spoke and position (R63 to R66); FEED_TWICE and NO_CLASS pass the
entitlement part (R67). The plan of each is at spoke 5, and at spoke 6 for FANOUT. -/
theorem test_witness_failures :
    (let cell (f : FeedId) (d : Fin 64) : Option Cell := some ⟨f, d, 0, 0⟩
     let at5 (x : Option NodeClass) (a b : Option Cell) : Plan := Plan.empty.set 5 ⟨x, (noCells.set 1 a).set 3 b⟩
     let fails (s : State) (p : Plan) := s.admission true p
     let st (f : Store → Store) : State := { admitted with store := f admitted.store }
     let cls (r : ClassRec) : State := st fun s => { s with working := s.working.set 10 (some (.nodeClass r)) }
     let ops (r : OperatorRec) : State := st fun s => { s with working := s.working.set 2 (some (.operator r)) }
     fails admitted (at5 (some 2) (cell 11 0) (cell 12 12)) = some ⟨5, some 1, .feedUnused⟩ ∧
     fails admitted (at5 (some 2) (cell 12 12) (cell 12 12)) = some ⟨5, some 3, .feedTwice⟩ ∧
     admitted.admission false (at5 (some 2) (cell 12 12) (cell 12 12)) = none ∧
     fails admitted (at5 none none (cell 12 12)) = some ⟨5, none, .noClass⟩ ∧
     admitted.admission false (at5 none none (cell 12 12)) = none ∧
     fails admitted (at5 (some 1) none none) = some ⟨5, none, .classAbsent⟩ ∧
     fails (cls ⟨0x0020#16, 0, 60⟩) goodPlan = some ⟨5, none, .capacity⟩ ∧
     fails (cls ⟨0xFFDF#16, 4, 60⟩) goodPlan = some ⟨5, some 3, .band⟩ ∧
     fails (ops ⟨0x37#6, 0x0020#16, 4⟩) goodPlan = some ⟨5, some 3, .operator⟩ ∧
     fails (st fun s => { s with withdrawing := s.withdrawing.set 0 true }) goodPlan = some ⟨5, some 3, .operator⟩ ∧
     fails (cls ⟨0x0020#16, 4, 47⟩) goodPlan = some ⟨5, some 3, .level⟩ ∧ fails (cls ⟨0x0020#16, 4, 48⟩) goodPlan = none ∧
     fails (ops ⟨0x08#6, 0x0020#16, 1⟩) goodPlan = none ∧
     fails (ops ⟨0x08#6, 0x0020#16, 1⟩) (goodPlan.set 6 ⟨some 2, noCells.set 0 (cell 12 12)⟩) =
       some ⟨6, some 0, .fanout⟩) := by decide +kernel

theorem test_witness_trim_point :
    (∃ t, (slot3 .rejected ready).claim (.trimPoint 1 3 31 3) = some t ∧ t.slots[(3 : SlotId)].state = .rejected) ∧
    (∃ t, (slot3 .ready ready).claim (.trimPoint 1 3 31 3) = some t ∧ t.slots[(3 : SlotId)].state = .ready ∧
      below 8 3 = some 3 ∧ below 32 31 = some 31 ∧ below 4 3 = some 3) := by
  refine ⟨?_, ?_⟩ <;> exact met (by decide +kernel) (by decide +kernel)

/-- The hub of `admitted` with the pointer at a cell of spoke 5, part DL. -/
def trimming (pos : CellPos) : State := { admitted with pointer := some ⟨3, 5, pos, .dl⟩ }

theorem test_witness_trim :
    (∃ t, ready.claim (.trim 1 [0, 0, 0]) = some t ∧ t.pointer = none) ∧
    (∃ t, ({ trimming 3 with slots := ready.slots } : State).claim (.trim 1 [0, 0, 0]) = some t ∧
      t.pointer = some ⟨3, 5, 3, .dl⟩ ∧ t.slots[(3 : SlotId)].state.trims = false) ∧
    (∃ t, (trimming 3).claim (.trim 1 [64, 0, 0]) = some t ∧ t.slots[(3 : SlotId)].state.trims = true ∧
      64 ≤ (64 : Byte).toNat) ∧
    (∃ t, (trimming 0).claim (.trim 1 [63, 63, 255]) = some t ∧ below 64 63 = some 63 ∧
      t.slots[(3 : SlotId)].plan[(5 : SpokeId)].cells[(0 : CellPos)] = none) ∧
    (∃ t, (trimming 3).claim (.trim 1 [0, 63, 255]) = some t ∧
      t.slots[(3 : SlotId)].plan[(5 : SpokeId)].cells[(3 : CellPos)] = some ⟨12, 12, 0, 0⟩ ∧
      t.commitCheck t.slots[(3 : SlotId)].plan[(5 : SpokeId)] 12 0 = .made) ∧
    (∃ t, (({ trimming 3 with feeds := admitted.feeds.set 12 ⟨.active, 2, 5, 61⟩ }) : State).claim (.trim 1 [0, 63, 255]) =
      some t ∧ t.commitCheck t.slots[(3 : SlotId)].plan[(5 : SpokeId)] 12 0 ≠ .made) := by
  refine ⟨?_, ?_, ?_, ?_, ?_, ?_⟩ <;> exact met (by decide +kernel) (by decide +kernel)

/-- The pointer at the last cell of spoke 31, at a part, with values staged. -/
def landing (part : Part) (st : Staging) (s : State) : Landing := ⟨0, 0, 0, none, { s with pointer := some ⟨3, 31, 3, part⟩, staging := st }⟩

/-- TRIM from any part and of any count (R70 to R73): values that fit and that do not; a value at DL, at UL and at DELAY, the
cell EMPTY, refused by class and by level, or made, at the place where the pointer wraps to spoke 0. -/
theorem test_witness_values_land :
    (∃ t, (trimming 3).claim (.trim 1 (List.replicate 48 63)) = some t ∧ t.pointer = some ⟨3, 5, 3, .dl⟩ ∧
      t.slots[(3 : SlotId)].state.trims = true ∧ trimsFit .dl (List.replicate 48 63) = true) ∧
    trimsFit .ul [63, 255, 64] = false ∧ trimsFit .delay [255, 63] = true ∧
    (∀ q ∈ [Part.dl, .ul, .delay], (landing q ⟨some 0, some 63⟩ admitted).state.pointer = some ⟨3, 31, 3, q⟩) ∧
    (let l := landing .delay ⟨some 0, some 63⟩ admitted
     l.state.staging = ⟨some 0, some 63⟩ ∧ l.state.slots[(3 : SlotId)].plan[(31 : SpokeId)].cells[(3 : CellPos)] = none ∧
      (l.land 255).skipped = 1 ∧ (l.land 255).state.pointer = some ⟨3, 0, 0, .dl⟩) ∧
    (let s := admitted
     let e : Entry := s.slots[(3 : SlotId)].plan[(5 : SpokeId)]
     e.cells[(3 : CellPos)] = some ⟨12, 12, 0, 0⟩ ∧ s.commitCheck e 12 0 = .made ∧
      ({ s with feeds := s.feeds.set 12 ⟨.active, 2, 5, 61⟩ } : State).commitCheck e 12 0 = .refused .level ∧
      s.commitCheck { e with expect := some 7 } 12 0 = .refused .classAbsent ∧ s.commitCheck { e with expect := none } 12 0 = .made ∧
      s.store.nodeClass 7 = none) :=
  ⟨met (by decide +kernel) (by decide +kernel), by decide, by decide, by decide +kernel, by decide +kernel, by decide +kernel⟩

theorem test_witness_bank_bind :
    (∃ t, (stepping 1 none ready).claim (.bankBind 1 0 3) = some t ∧ bankOf 0 = some false ∧ below 8 3 = some 3 ∧
      t.engine.state ≠ .idle) ∧
    (∃ t, ready.claim (.bankBind 1 1 7) = some t ∧ bankOf 1 = some true ∧ t.slots[(7 : SlotId)].state ≠ .ready) ∧
    (∃ t, (bound3 ready).claim (.bankBind 1 0 3) = some t ∧ t.slots[(3 : SlotId)].state = .ready ∧
      t.engine.binding false ≠ none ∧ t.engine.line.val < 32) ∧
    (∃ t, (slot3 .ready ready).claim (.bankBind 1 0 3) = some t ∧ t.engine.state = .idle ∧ t.engine.binding false = none ∧
      t.admission false t.slots[(3 : SlotId)].plan = some ⟨5, none, .classAbsent⟩) ∧
    (∃ t, admitted.claim (.bankBind 1 0 3) = some t ∧ t.engine.state = .idle ∧ t.engine.binding false = none ∧
      t.admission false t.slots[(3 : SlotId)].plan = none) ∧
    (∃ t, (spokeIn .live .none (some 2) admitted).claim (.bankBind 1 0 3) = some t ∧
      t.spokes[(5 : SpokeId)].state = .live ∧ t.engine.followsB 5 = false ∧
      t.slots[(3 : SlotId)].plan[(5 : SpokeId)].expect = t.spokes[(5 : SpokeId)].knownClass) ∧
    (∃ t, (spokeIn .live .none (some 1) admitted).claim (.bankBind 1 0 3) = some t ∧
      t.slots[(3 : SlotId)].plan[(5 : SpokeId)].expect = some 2 ∧ t.spokes[(5 : SpokeId)].knownClass ≠ some 2 ∧
      t.spokes[(5 : SpokeId)].hold.isolates = false ∧ t.channels[(13 : ChannelId)].enabled = true) ∧
    (∃ t, (withEngine (fun e => { e with bankB := some 3 }) admitted).claim (.bankBind 1 1 3) = some t ∧
      t.engine.binding true ≠ none ∧ ¬0 < t.engine.line.val) := by
  refine ⟨?_, ?_, ?_, ?_, ?_, ?_, ?_, ?_⟩ <;> exact met (by decide +kernel) (by decide +kernel)

/-- BANK BIND of a bank that expects another class of LIVE spoke 5: CLASS_MISMATCH, and both bindings in the answer (R78,
R79). -/
theorem test_bank_bind : (match exec (.bankBind 1 0 3) (spokeIn .live .none (some 1) admitted) with
    | .next t => t.spokes[(5 : SpokeId)].hold == .isolate .classMismatch &&
        t.channels[(13 : ChannelId)].list == [⟨some 5, 0, 1, .isolation .classMismatch⟩] &&
        t.lane.outbound == [.response 1 (Instr.bankBind 1 0 3).code .done [3, 0xFF]]
    | _ => false) = true := by decide +kernel

theorem test_witness_bank_release :
    (∃ t, ready.claim (.bankRelease 1 2) = some t ∧ 2 ≤ (2 : Byte).toNat) ∧
    (∃ t, (stepping 1 none ready).claim (.bankRelease 1 1) = some t ∧ bankOf 1 = some true ∧ t.engine.state ≠ .idle) ∧
    (∃ t, (bound3 ready).claim (.bankRelease 1 0) = some t ∧ bankOf 0 = some false ∧ t.engine.state = .idle ∧
      t.engine.binding false ≠ none ∧ t.engine.line.val < 32) ∧
    (∃ t, ready.claim (.bankRelease 1 1) = some t ∧ t.engine.state = .idle ∧ ¬0 < t.engine.line.val) := by
  refine ⟨?_, ?_, ?_, ?_⟩ <;> exact met (by decide +kernel) (by decide +kernel)

/-- The numbers 31 down to 0. -/
def downward : List Byte := (List.range 32).map fun n => BitVec.ofNat 8 (31 - n)

theorem test_witness_order_fold :
    (∃ t, ready.claim (.sweepOrder 1 (List.replicate 32 0)) = some t ∧ Machine.orderOf (List.replicate 32 0) = none) ∧
    (∃ t, ready.claim (.sweepOrder 1 downward) = some t ∧ downward.length = 32 ∧
      Machine.orderOf downward = some (tabulate fun i => ⟨31 - i.val, by omega⟩) ∧ t.engine.state = .idle ∧
      t.engine.line.val = 0) ∧
    (∃ t, (withEngine (fun e => { e with line := 1 }) ready).claim (.sweepOrder 1 downward) = some t ∧
      0 < t.engine.line.val ∧ t.engine.line.val < 32) ∧
    (∃ t, (withEngine (fun e => { e with line := 31 }) ready).claim (.fold 1) = some t ∧ t.engine.line.val < 32) ∧
    (∃ t, (withEngine (fun e => { e with line := 32 }) ready).claim (.fold 1) = some t ∧ t.engine.line.val = 32) ∧
    (∃ t, (stepping 1 none ready).claim (.fold 1) = some t ∧ t.engine.state ≠ .idle) := by
  refine ⟨?_, ?_, ?_, ?_, ?_, ?_⟩ <;> exact met (by decide +kernel) (by decide +kernel)

theorem test_witness_cutover :
    (32 < (33 : Byte).toNat ∧ (0 : Byte).toNat = 0 ∧ 63 < (64 : Byte).toNat ∧ 1 < (2 : Byte).toNat) ∧
    (∃ t, (stepping 1 none ready).claim (.cutover 1 32 255 63 1) = some t ∧
      paramsOf 32 255 63 1 = some ⟨32, 255, 63, true, .command⟩ ∧ t.engine.state ≠ .idle) ∧
    (∃ t, ready.claim (.cutover 1 0 1 0 0) = some t ∧ paramsOf 0 1 0 0 = some ⟨0, 1, 0, false, .command⟩ ∧
      t.engine.state = .idle ∧ (0 : Fin 33) = t.engine.line) ∧
    (∃ t, ready.claim (.cutover 1 32 1 0 0) = some t ∧ t.engine.line < 32 ∧ t.engine.bankB = none) ∧
    (∃ t, (withEngine (fun e => { e with line := 32 }) ready).claim (.cutover 1 0 1 0 0) = some t ∧ (0 : Fin 33) < t.engine.line ∧
      t.engine.bankA = none) ∧
    (∃ t, (withEngine (fun e => { e with bankB := some 3 }) (slot3 .ready ready)).claim (.cutover 1 32 1 0 0) = some t ∧
      t.engine.bankB ≠ none ∧ t.engine.state = .idle ∧ (32 : Fin 33) ≠ t.engine.line) := by
  refine ⟨by decide, ?_, ?_, ?_, ?_, ?_⟩ <;> exact met (by decide +kernel) (by decide +kernel)

theorem test_witness_halt :
    (∃ t, ready.claim (.halt 1) = some t ∧ t.engine.state = .idle) ∧
    (∃ t, (withEngine (fun e => { e with state := .halting }) (stepping 1 (some ⟨0, true, false, 0⟩) ready)).claim (.halt 1) =
      some t ∧ t.engine.state = .halting) ∧
    (∃ t, (stepping 1 (some ⟨0, true, false, 0⟩) ready).claim (.halt 1) = some t ∧ t.engine.state = .stepping ∧
      t.engine.current = some ⟨0, true, false, 0⟩) ∧
    (∃ t, (stepping 1 none ready).claim (.halt 1) = some t ∧ t.engine.current = none ∧
      t.engine.params = some ⟨4, 1, 2, false, .command⟩) := by
  refine ⟨?_, ?_, ?_, ?_⟩ <;> exact met (by decide +kernel) (by decide +kernel)

theorem test_witness_watch :
    (∃ t, ready.claim (.watchSet 1 7 1 2097121 0 1 0 0 0 0) = some t ∧
      (2097120 < (2097121 : BitVec 24).toNat ∧ (5 : BitVec 24).toNat ≤ (5 : BitVec 24).toNat ∧ (0 : Byte).toNat = 0 ∧
        reliefOf 2 0 0 0 = none)) ∧
    (∃ t, ready.claim (.watchSet 1 7 1 2097120 2097119 255 1 32 255 63) = some t ∧ below 8 7 = some 7 ∧
      (2097119 : BitVec 24).toNat < (2097120 : BitVec 24).toNat ∧ (2097120 : BitVec 24).toNat ≤ 2097120 ∧
      reliefOf 1 32 255 63 = some (some ⟨32, 255, 63⟩)) ∧
    (∃ t, ready.claim (.watchOff 1 7) = some t ∧ below 8 7 = some 7) := by
  refine ⟨?_, ?_, ?_⟩ <;> exact met (by decide +kernel) (by decide +kernel)

theorem test_witness_capture :
    (∃ t, ready.claim (.capture 1 32 0 0 0 0) = some t ∧ targetOf 32 0 0 = none ∧ captureModeOf 1 1001 = none) ∧
    (∃ t, ({ ready with store := { ready.store with locked := true } } : State).claim (.capture 1 31 3 1 0 0) = some t ∧
      targetOf 31 3 1 = some ⟨31, 3, .raw⟩ ∧ captureModeOf 0 0 = some none ∧ t.store.locked = true) ∧
    (∃ t, (capturing (fun u => { u with single := some ⟨0, 0, .power⟩ }) false ready).claim (.capture 1 31 3 1 0 0) =
      some t ∧ t.store.locked = false ∧ t.capture.single ≠ none) ∧
    (∃ t, (capturing (fun u => { u with continuous := some ⟨⟨31, 3, .power⟩, 1, 0⟩ }) false ready).claim
      (.capture 1 31 3 1 0 0) = some t ∧ t.capture.continuous = some ⟨⟨31, 3, .power⟩, 1, 0⟩ ∧
        (⟨31, 3, .power⟩ : Target) ≠ ⟨31, 3, .raw⟩) ∧
    (∃ t, ready.claim (.capture 1 31 3 1 0 0) = some t ∧ t.capture.single = none ∧ t.capture.continuous = none) ∧
    (∃ t, ready.claim (.capture 1 31 3 1 1 1000) = some t ∧ captureModeOf 1 1000 = some (some 1000)) ∧
    (∃ t, ready.claim (.captureStop 1) = some t ∧ t.capture.collection = none) := by
  refine ⟨?_, ?_, ?_, ?_, ?_, ?_, ?_⟩ <;> exact met (by decide +kernel) (by decide +kernel)

theorem test_witness_qualify :
    (∃ t, ready.claim (.qualify 1 4 0 1 1 0 0 51) = some t ∧ qualifyOf 4 0 1 1 0 0 51 = none) ∧
    (∃ t, ready.claim (.qualify 1 4 3 255 255 3 1 50) = some t ∧
      qualifyOf 4 3 255 255 3 1 50 = some (.opticalLow, ⟨.duration, 255, 255, 3, true, some 50⟩)) ∧
    qualifyOf 0 2 1 1 0 0 0xFFFF = some (.frameErrors, ⟨.count, 1, 1, 0, false, none⟩) := by
  refine ⟨?_, ?_, by decide⟩ <;> exact met (by decide +kernel) (by decide +kernel)

theorem test_witness_alarm_commands :
    (∃ t, ready.claim (.alarmEnable 1 0x8000 0x8001) = some t ∧ (0x8000#16 &&& 0x8001#16 ≠ 0#16)) ∧
    (∃ t, ready.claim (.alarmMask 1 0x8000 0x0001) = some t ∧ (0x8000#16 &&& 0x0001#16 = 0#16)) ∧
    (∃ t, ready.claim (.alarmTrack 1 2) = some t ∧ 1 < (2 : Byte).toNat) ∧
    (∃ t, ready.claim (.alarmDone 1 16) = some t ∧ 15 < (16 : Byte).toNat) ∧
    (∃ t, ready.claim (.alarmDone 1 15) = some t ∧ below 16 15 = some 15 ∧ t.channels[(15 : ChannelId)].inService = false) ∧
    (∃ t, (withChannel 15 (fun c => { c with inService := true }) ready).claim (.alarmDone 1 15) = some t ∧
      t.channels[(15 : ChannelId)].inService = true) := by
  refine ⟨?_, ?_, ?_, ?_, ?_, ?_⟩ <;> exact met (by decide +kernel) (by decide +kernel)

/-- The store changed. -/
def withStore (f : Store → Store) (s : State) : State := { s with store := f s.store }

theorem test_witness_store_erase :
    (∃ t, (withStore (fun st => { st with locked := true }) ready).claim (.storeErase 1 3) = some t ∧ below 4 3 = some 3 ∧
      t.store.locked = true) ∧
    (∃ t, (withStore (fun st => { st with engine := .locking }) ready).claim (.storeErase 1 3) = some t ∧
      t.store.locked = false ∧ t.store.engine ≠ .idle) ∧
    (∃ t, live.claim (.storeErase 1 2) = some t ∧ t.store.engine = .idle ∧ t.pageInUse 2 = true) ∧
    (∃ t, live.claim (.storeErase 1 3) = some t ∧ t.store.locked = false ∧ t.store.engine = .idle ∧
      t.pageInUse 3 = false ∧ pageOf 15 = 3) := by
  refine ⟨?_, ?_, ?_, ?_⟩ <;> exact met (by decide +kernel) (by decide +kernel)

theorem test_witness_store_write :
    (∃ t, ready.claim (.storeWrite 1 0 64 0 0 1) = some t ∧ storeWriteOf 0 64 0 0 1 = none) ∧
    (∃ t, (withStore (fun st => { st with intact := st.intact.set 3 false }) ready).claim (.storeWrite 1 15 0 0 4 80) = some t ∧
      storeWriteOf 15 0 0 4 80 = some (15, .nodeClass ⟨0, 4, 80⟩) ∧ t.store.engine = .idle ∧
      t.store.intact[pageOf 15] = false) ∧
    (∃ t, (withStore (fun st => { st with records := st.records.set 15 .spoiled }) ready).claim (.storeWrite 1 15 0 0 4 80) =
      some t ∧ t.store.intact[pageOf 15] = true ∧ t.store.records[(15 : RecordId)] ≠ .blank) ∧
    (∃ t, ready.claim (.storeWrite 1 0 63 0 0 32) = some t ∧ storeWriteOf 0 63 0 0 32 = some (0, .operator ⟨63, 0, 32⟩) ∧
      t.store.locked = false ∧ t.store.engine = .idle ∧ t.store.intact[pageOf 0] = true ∧
      t.store.records[(0 : RecordId)] = .blank) ∧
    (∃ t, ready.claim (.storeLock 1) = some t ∧ t.store.locked = false ∧ t.store.engine = .idle) := by
  refine ⟨?_, ?_, ?_, ?_, ?_⟩ <;> exact met (by decide +kernel) (by decide +kernel)

theorem test_witness_resync :
    (ready.mgmtUp = true ∧ ready.lane.assembly = none ∧ ready.lane.overrun = false ∧
      (withLane (fun l => { l with received := 250 }) ready).lane.received + 6 ≤ 256) ∧
    (let s := dueNow (fun d => { d with abandon := true }) (withLane (fun l => { l with assembly := some [0xC3#8] }) ready)
     s.due.abandon = true ∧ s.mgmtUp = true) ∧
    (let s := withLane (fun l => { l with overrun := true, firstTag := some 9, discards := 255 }) (full ready)
     s.lane.overrun = true ∧ s.lane.firstTag = some 9 ∧ 8 ≤ s.lane.outbound.length) := by decide +kernel

/-- RESYNC and the responses that waited, by the places that are free: held and holder both waiting. -/
theorem test_resync_places :
    (let m : Message := .response 1 0x3D#6 .done []
     let h : Message := .response 2 0x3C#6 .done [0, 0, 0]
     let n : Message := .response 3 0x3C#6 .done [0, 0, 0]
     let after (free : Nat) := match exec (.resync 3) (withLane (fun l =>
         { l with outbound := List.replicate (8 - free) m, holder := some h, held := some m }) ready) with
       | .next t => (t.lane.outbound.drop (8 - free), t.lane.holder, t.lane.held)
       | _ => ([], none, none)
     after 0 = ([], some n, some m) ∧ after 1 = ([h], some n, some m) ∧ after 2 = ([h, m], some n, none) ∧
      after 3 = ([h, m, n], none, none)) := by decide +kernel

theorem test_witness_hub_reset : (∃ t, ready.claim (.hubReset 1) = some t ∧ t.mgmtUp = true) ∧
    (∃ t, ({ withLane (fun l => { l with intake := [.hubReset 1] }) ready with ports := Vector.replicate 6 false } : State).claim
      (.hubReset 1) = some t ∧ t.mgmtUp = false) :=
  ⟨met (by decide +kernel) (by decide +kernel),
    ({ ready with ports := Vector.replicate 6 false } : State), by decide +kernel, by decide +kernel⟩

/-! ## What a few steps do, on small states -/

/-- HUB STATUS on the started hub: the part code, the revision, frame 0, FREE, CP0, eight places free, start-up complete. -/
theorem test_hub_status : (match exec (.hubStatus 7) ready with
    | .next t => t.lane.outbound == [.response 7 0x3D#6 .done
        [0x04, 0x60, 1, 0, 0, 1, 0, 0, 0, 0, 0, 0xFF, 0xFF, 0, 0, 0, 0, 8, 0, 1]]
    | _ => false) = true := by decide +kernel

/-- SPOKE ISOLATE takes a LIVE spoke out with ADMIN; nothing is raised. -/
theorem test_spoke_isolate : (match exec (.spokeIsolate 1 5) live with
    | .next t => t.spokes[(5 : SpokeId)].state == .isolated && t.spokes[(5 : SpokeId)].hold == .isolate .admin &&
        t.channels == live.channels
    | _ => false) = true := by decide +kernel

/-- The bring-up of section 11.1: the first marker, 700 microseconds after reset, opens frame 1 and locks the reference. -/
theorem test_first_marker : (match exec (.timebaseRelock 700 []) { State.reset with ports := Vector.replicate 6 true } with
    | .next t => t.frame == 1#16 && t.reference == .locked && t.store.left == 4
    | _ => false) = true := by decide +kernel

/-- The example of section 2.10: a HELLO completed during frame 503, with every taking of boundary 503 left, is taken at
boundary 504 and not before: LIVE with class 2, and the settle count 8 is not counted down by that boundary. -/
theorem test_late_report :
    (let s : State := { (spokeIn .training .none none (entitled ready)).mapSpoke 5 (fun r => { r with queue := [.hello 2] }) with
       frame := 503, reference := .locked, due := { Due.empty with reports := 4 } }
     match exec (.frameBoundary [.report]) s with
     | .next t => t.frame == 504#16 && t.spokes[(5 : SpokeId)].state == .live && t.spokes[(5 : SpokeId)].settle == 8 &&
         t.spokes[(5 : SpokeId)].queue == []
     | _ => false) = true := by decide +kernel

/-- SETTLE_END with a taking left and no report queued stops the taker (R36, log 22): a HELLO of the known class queued
after it is the next boundary's, so the step it completed stays complete. -/
theorem test_settle_end_stops_taker :
    (let s := dueNow (fun d => { d with reports := 3 }) (settling 1 5)
     match exec (.settleEnd 5) s with
     | .next t => t.due.reports == 0 && t.engine.current == some ⟨5, true, true, 1⟩ &&
         (let u := t.mapSpoke 5 fun r => { r with queue := [.hello 2] }
          match exec .reportTake u with
          | .next v => v == u
          | _ => false)
     | _ => false) = true := by decide +kernel

/-- An isolation by FAULT of a LIVE spoke raises ISOLATION with the kind, on channel 13 (R26, R122). -/
theorem test_fault_isolates :
    (let t := live.isolate 5 (.fault .opticalLow)
     t.spokes[(5 : SpokeId)].state = .isolated ∧
      t.channels[(13 : ChannelId)].list = [⟨some 5, 0, 1, .isolation (.fault .opticalLow)⟩] ∧
      ((spokeIn .training .none none ready).isolate 5 (.fault .opticalLow)).spokes[(5 : SpokeId)].state = .training) := by
  decide +kernel

/-- A poll that falls due at a spoke ISOLATED at the close is made after SPOKE RESTORE took it to TRAINING (R40). -/
theorem test_poll_after_restore :
    (let s := dueNow (fun d => { d with poll := d.poll.set 5 true })
       (withSpoke (fun r => { r with outstanding := true }) (spokeIn .isolated (.isolate .admin) none ready))
     match exec (.spokeRestore 1 5) s with
     | .next t => t.spokes[(5 : SpokeId)].state == .training &&
         (match exec (.healthPollDue 5) t with
          | .next u => u.spokes[(5 : SpokeId)].missed == 1 && u.spokes[(5 : SpokeId)].nextPoll == 100 &&
              u.links[(5 : SpokeId)].requests == [.hello, .healthPoll]
          | _ => false)
     | _ => false) = true := by decide +kernel

/-- The bytes of HUB STATUS on the lane put the command in the intake queue. -/
theorem test_bytes_of_a_command : (match exec (.commandComplete [0xC3, 0x06, 0x7D, 0x07, 0x10, 0xFA]) ready with
    | .next t => t.lane.intake == [.hubStatus 7] && t.lane.received == 6 && t.lane.assembly == none
    | _ => false) = true := by decide +kernel

end Sys2Proof.Tests
end

section
/-! The spoke commands SPOKE WAKE (R46) and POLL SET (R41): what each does in each of its cases, and that each is executed
and answered so. -/

namespace Sys2Proof.Machine

/-! ## Operands in and out of range (R170) -/

theorem below_eq_none {n : Nat} {b : Byte} (h : n ≤ b.toNat) : below n b = none := dif_neg (Nat.not_lt.mpr h)

theorem within_eq_none {lo hi n : Nat} (h : n < lo ∨ hi < n) : within lo hi n = none := if_neg (by omega)

theorem within_eq_some {lo hi n : Nat} (hlo : lo ≤ n) (hhi : n ≤ hi) : within lo hi n = some n := if_pos ⟨hlo, hhi⟩

/-! ## Entry to LIVE at the other spokes, and its class check's two outcomes (R29) -/

/-- A spoke that is to enter LIVE passes its class check or fails it against a class that its followed plan expects. -/
theorem class_matches_or_differs (s : State) (i : SpokeId) :
    (s.expectedClass i = none ∨ s.expectedClass i = s.spokes[i].knownClass) ∨
      ∃ c, s.expectedClass i = some c ∧ s.spokes[i].knownClass ≠ some c := by
  rcases hc : s.expectedClass i with _ | c
  · exact .inl (.inl rfl)
  · by_cases hk : s.spokes[i].knownClass = some c
    · exact .inl (.inr hk.symm)
    · exact .inr ⟨c, rfl, hk⟩

theorem enterLive_other_spoke (s : State) {i j : SpokeId} (hj : j ≠ i) : (s.enterLive i).spokes[j] = s.spokes[j] := by
  rcases class_matches_or_differs s i with hpass | ⟨c, hc, hk⟩
  · rw [enterLive_passes s i hpass, mapSpoke_at, if_neg hj]
  · rw [enterLive_fails_spokes s i c hc hk, update_other _ _ hj]

/-! ## SPOKE WAKE, case by case (R46) -/

section SpokeWake

variable {s : State} {b : Byte} {i : SpokeId}

theorem spokeWake_out_of_range (h : 32 ≤ b.toNat) : s.spokeWake b = s.refuse .range := by
  unfold State.spokeWake
  rw [below_eq_none h]

/-- The command's order of questions once the spoke is read: the hold, then the state. -/
theorem spokeWake_eq (hb : below 32 b = some i) : s.spokeWake b =
    if s.spokes[i].hold ≠ .quiet then s.refuse .wrongState
    else if s.spokes[i].state = .quiet then (s.enterLive i).doneWith
    else if s.spokes[i].state = .dark ∨ s.spokes[i].state = .training then
      (s.mapSpoke i fun r => { r with hold := .none }).doneWith
    else s.refuse .wrongState := by
  unfold State.spokeWake
  rw [hb]

theorem spokeWake_of_quiet (hb : below 32 b = some i) (hs : s.spokes[i].state = .quiet) (hh : s.spokes[i].hold = .quiet) :
    s.spokeWake b = (s.enterLive i).doneWith := by
  rw [spokeWake_eq hb, if_neg (not_not_intro hh), if_pos hs]

theorem spokeWake_of_dark_or_training (hb : below 32 b = some i)
    (hs : s.spokes[i].state = .dark ∨ s.spokes[i].state = .training)
    (hh : s.spokes[i].hold = .quiet) :
    s.spokeWake b = (s.mapSpoke i fun r => { r with hold := .none }).doneWith := by
  have hq : s.spokes[i].state ≠ .quiet := by rcases hs with hs | hs <;> rw [hs] <;> decide
  rw [spokeWake_eq hb, if_neg (not_not_intro hh), if_neg hq, if_pos hs]

theorem spokeWake_refused (hb : below 32 b = some i)
    (h : s.spokes[i].state = .live ∨ s.spokes[i].state = .isolated ∨ s.spokes[i].hold ≠ .quiet) :
    s.spokeWake b = s.refuse .wrongState := by
  rw [spokeWake_eq hb]
  obtain (hs | hs) | hh := or_assoc.mpr h
  case inr => rw [if_pos hh]
  all_goals simp only [hs, reduceCtorEq, or_self, if_false, ite_self]

end SpokeWake

theorem spokeWake_answers {tag b : Byte} {s t u : State} {st : Status} {body : List Byte}
    (hc : s.claim (.spokeWake tag b) = some t) (ha : t.spokeWake b = ⟨st, body, u⟩) :
    Answers (.spokeWake tag b) s st body u :=
  answers_of s rfl hc rfl ha

/-- Settles O26: the cases of the command, and for a QUIET spoke the two outcomes of the class check at entry to LIVE. -/
theorem wakeEndsQuietHold : Obligations.WakeEndsQuietHold := by
  intro tag b s t hc
  refine ⟨fun hr => spokeWake_answers hc (spokeWake_out_of_range hr), fun i hb => ⟨fun hs hh => ?quiet, fun hs hh => ?training,
    fun h => ?refused⟩⟩
  case quiet =>
    refine ⟨t.enterLive i, spokeWake_answers hc (spokeWake_of_quiet hb hs hh), fun j hj => enterLive_other_spoke t hj,
      fun hpass => ?passes, fun ⟨c, he, hk⟩ => ?fails, enterLive_other t i chLinkUp (by decide) (by decide)⟩
    case passes =>
      rw [enterLive_passes t i hpass]
      exact ⟨rfl, by rw [mapSpoke_at, if_pos rfl]⟩
    case fails =>
      have hrec : (t.enterLive i).spokes[i] =
          { t.spokes[i] with state := .isolated, hold := .isolate .classMismatch, settle := 0 } := by
        rw [enterLive_fails_spokes t i c he hk, update_same]
      exact ⟨by rw [hrec], by rw [hrec], by rw [hrec], enterLive_raises t i c he hk, enterLive_frame t i⟩
  case training => exact spokeWake_answers hc (spokeWake_of_dark_or_training hb hs hh)
  case refused => exact spokeWake_answers hc (spokeWake_refused hb h)

/-! ## POLL SET and the reload of frames to next poll (R40, R41) -/

theorem pollSet_out_of_range {s : State} {p : Half} (h : p.toNat < 10 ∨ 1000 < p.toNat) :
    s.pollSet p = s.refuse .range := by
  unfold State.pollSet
  rw [within_eq_none h]

theorem pollSet_in_range {s : State} {p : Half} (hlo : 10 ≤ p.toNat) (hhi : p.toNat ≤ 1000) :
    s.pollSet p = State.doneWith { s with
      pollPeriod := p.toNat
      spokes := mapTable (fun r : SpokeRec => { r with nextPoll := min p.toNat r.nextPoll }) s.spokes } := by
  unfold State.pollSet
  rw [within_eq_some hlo hhi]

theorem pollSet_answers {tag : Byte} {p : Half} {s t u : State} {st : Status} {body : List Byte}
    (hc : s.claim (.pollSet tag p) = some t) (ha : t.pollSet p = ⟨st, body, u⟩) :
    Answers (.pollSet tag p) s st body u :=
  answers_of s rfl hc rfl ha

theorem pollTurn_reloads {s : State} {i : SpokeId} (h : s.due.poll[i] = true) :
    (s.pollTurn i).spokes[i].nextPoll = s.pollPeriod := by
  unfold State.pollTurn
  rw [if_pos h, mapLink_spokes, mapSpoke_at, if_pos rfl]

/-- Settles O27: the two cases of the command, the reload of a poll that falls due, and the reset values. -/
theorem pollSetLowersCounts : Obligations.PollSetLowersCounts := by
  refine ⟨fun tag p s t hc => ⟨fun hr => pollSet_answers hc (pollSet_out_of_range hr), fun hlo hhi => ?_⟩,
    fun i s hdue => ⟨s.pollTurn i, rfl, pollTurn_reloads hdue⟩, fun strap s => ⟨s.powerOn strap, rfl, rfl⟩, fun _ => rfl⟩
  exact ⟨_, pollSet_answers hc (pollSet_in_range hlo hhi), rfl, fun i => mapTable_get _ _ i⟩

end Sys2Proof.Machine
end

section
/-! The plan command PLAN DROP (R60): the slot and the pointer it leaves, and that each of its cases is executed and
answered so. -/

namespace Sys2Proof.Machine

/-! ## The pointer cleared where it names a slot (R56, R57, R60) -/

section ClearPointer

variable {s : State} {k : SlotId}

theorem clearPointerAt_of_named (h : s.pointer.map (·.slot) = some k) :
    s.clearPointerAt k = { s with pointer := none, staging := ⟨none, none⟩ } := if_pos h

theorem clearPointerAt_of_not_named (h : s.pointer.map (·.slot) ≠ some k) : s.clearPointerAt k = s := if_neg h

/-- Whether or not the pointer names the slot, only the pointer and the staging record can change. -/
theorem clearPointerAt_frame : s.clearPointerAt k =
    { s with pointer := (s.clearPointerAt k).pointer, staging := (s.clearPointerAt k).staging } := by
  by_cases h : s.pointer.map (·.slot) = some k
  case pos => rw [clearPointerAt_of_named h]
  case neg => rw [clearPointerAt_of_not_named h]

@[simp] theorem clearPointerAt_slots : (s.clearPointerAt k).slots = s.slots := by rw [clearPointerAt_frame]

end ClearPointer

/-! ## A slot replaced and the pointer to it cleared, as PLAN OPEN, PLAN EDIT and PLAN DROP leave it -/

section ReplacedSlot

variable {s : State} {k : SlotId} {v : PlanSlot}

theorem replacedSlot_frame : (s.setSlot k v).clearPointerAt k =
    { s with
      slots := s.slots.set k v
      pointer := ((s.setSlot k v).clearPointerAt k).pointer
      staging := ((s.setSlot k v).clearPointerAt k).staging } := clearPointerAt_frame

theorem replacedSlot_clears_named (h : s.pointer.map (·.slot) = some k) :
    ((s.setSlot k v).clearPointerAt k).pointer = none ∧
      ((s.setSlot k v).clearPointerAt k).staging = ⟨none, none⟩ := by
  have hn : (s.setSlot k v).pointer.map (·.slot) = some k := h
  rw [clearPointerAt_of_named hn]
  exact ⟨rfl, rfl⟩

theorem replacedSlot_keeps_other (h : s.pointer.map (·.slot) ≠ some k) :
    ((s.setSlot k v).clearPointerAt k).pointer = s.pointer ∧
      ((s.setSlot k v).clearPointerAt k).staging = s.staging := by
  have hn : (s.setSlot k v).pointer.map (·.slot) ≠ some k := h
  rw [clearPointerAt_of_not_named hn]
  exact ⟨rfl, rfl⟩

/-- The answer gives the state of the slot put in place (R55). -/
theorem replacedSlot_slotReply : ((s.setSlot k v).clearPointerAt k).slotReply k =
    ⟨.done, u8 v.state.code, (s.setSlot k v).clearPointerAt k⟩ := by
  simp [State.slotReply]

end ReplacedSlot

/-! ## PLAN DROP, case by case (R60) -/

theorem planDrop_bound {s : State} {b : Byte} {k : SlotId} (hb : below 8 b = some k) (h : s.engine.holds k = true) :
    s.planDrop b = s.refuse .inUse := by
  unfold State.planDrop
  rw [hb]
  exact if_pos h

theorem planDrop_unbound {s : State} {b : Byte} {k : SlotId} (hb : below 8 b = some k) (h : s.engine.holds k = false) :
    s.planDrop b = ⟨.done, [0], (s.setSlot k .reset).clearPointerAt k⟩ := by
  unfold State.planDrop
  rw [hb]
  calc (if s.engine.holds k = true then s.refuse .inUse else ((s.setSlot k .reset).clearPointerAt k).slotReply k)
    _ = ((s.setSlot k .reset).clearPointerAt k).slotReply k := if_neg (Bool.eq_false_iff.mp h)
    _ = ⟨.done, [0], (s.setSlot k .reset).clearPointerAt k⟩ := replacedSlot_slotReply

theorem planDrop_answers {tag b : Byte} {s t u : State} {st : Status} {body : List Byte}
    (hc : s.claim (.planDrop tag b) = some t) (ha : t.planDrop b = ⟨st, body, u⟩) :
    Answers (.planDrop tag b) s st body u :=
  answers_of s rfl hc rfl ha

/-- Settles O28: a bound slot is refused; any other is reset, with the pointer to it cleared. -/
theorem planDropEmpties : Obligations.PlanDropEmpties := by
  intro tag b k s t hb hc
  refine ⟨fun hbound => planDrop_answers hc (planDrop_bound hb hbound), fun hfree => ?unbound⟩
  case unbound =>
    exact ⟨(t.setSlot k .reset).clearPointerAt k, planDrop_answers hc (planDrop_unbound hb hfree),
      replacedSlot_frame, replacedSlot_clears_named, replacedSlot_keeps_other⟩

end Sys2Proof.Machine
end

section
/-! The invariants of the hub, kept by every step (R25, R51, R68, R75, R129, R138, R153, R156, R158, R162): `Keeps` says of
two states that the second is in good order where the first is, and holds of every operation. -/

namespace Sys2Proof.Machine

/-! ## Spokes coherent: one spoke changed at a time (R25) -/

/-- The records and link locks of every spoke but one are as they were. -/
def OnlySpoke (i : SpokeId) (s t : State) : Prop :=
  ∀ j : SpokeId, j ≠ i → t.spokes[j] = s.spokes[j] ∧ t.links[j].locked = s.links[j].locked

/-- The second state's spokes are coherent where the first's are. -/
structure KeepsSpokes (s t : State) : Prop where
  keeps : SpokesCoherent s → SpokesCoherent t

theorem KeepsSpokes.trans {s t u : State} (h : KeepsSpokes s t) (k : KeepsSpokes t u) : KeepsSpokes s u :=
  ⟨fun c => k.keeps (h.keeps c)⟩

theorem KeepsSpokes.refl (s : State) : KeepsSpokes s s := ⟨id⟩

theorem KeepsSpokes.of_eq {s t : State} (hs : t.spokes = s.spokes) (hl : t.links = s.links) : KeepsSpokes s t := by
  refine ⟨fun h => ?_⟩
  unfold SpokesCoherent
  rw [hs, hl]
  exact h

theorem due_keepsSpokes (s : State) (d : Due) : KeepsSpokes s { s with due := d } := .of_eq rfl rfl

theorem keepsSpokes_foldl {α : Type} (f : State → α → State) (h : ∀ s a, KeepsSpokes s (f s a)) (l : List α) (s : State) :
    KeepsSpokes s (l.foldl f s) := by
  induction l generalizing s with
  | nil => exact .refl s
  | cons a l ih => exact (h s a).trans (ih _)

theorem OnlySpoke.of_eq {i : SpokeId} {s t : State} (hs : t.spokes = s.spokes) (hl : t.links = s.links) :
    OnlySpoke i s t := fun _ _ => by rw [hs, hl]; exact ⟨rfl, rfl⟩

theorem OnlySpoke.trans {i : SpokeId} {s t u : State} (h : OnlySpoke i s t) (k : OnlySpoke i t u) : OnlySpoke i s u :=
  fun j n => ⟨(k j n).1.trans (h j n).1, (k j n).2.trans (h j n).2⟩

theorem OnlySpoke.keeps {i : SpokeId} {s t : State} (h : OnlySpoke i s t)
    (c : SpokesCoherent s → t.spokes[i].coherent t.links[i].locked = true) : KeepsSpokes s t := by
  refine ⟨fun hs j => ?_⟩
  by_cases e : j = i
  case pos => rw [e]; exact c hs
  case neg => rw [(h j e).1, (h j e).2]; exact hs j

theorem OnlySpoke.of_update {i : SpokeId} {s t : State} {f : SpokeRec → SpokeRec} {g : Link → Link}
    (hs : t.spokes = update s.spokes i f) (hl : t.links = update s.links i g) : OnlySpoke i s t := by
  intro j n
  rw [hs, hl, update_other _ _ n, update_other _ _ n]
  exact ⟨rfl, rfl⟩

theorem mapSpoke_only (s : State) (i : SpokeId) (f : SpokeRec → SpokeRec) : OnlySpoke i s (s.mapSpoke i f) :=
  fun j n => ⟨by rw [mapSpoke_at, if_neg n], rfl⟩

theorem mapLink_only (s : State) (i : SpokeId) (f : Link → Link) : OnlySpoke i s (s.mapLink i f) :=
  fun j n => ⟨rfl, by rw [mapLink_at, if_neg n]⟩

theorem raise_only (s : State) (i : SpokeId) (ch : ChannelId) (src : Option Nat) (d : Detail) :
    OnlySpoke i s (s.raise ch src d) := .of_eq rfl rfl

theorem isolate_only (s : State) (i : SpokeId) (r : Reason) : OnlySpoke i s (s.isolate i r) := by
  intro j n
  rw [isolate_links, isolate_spokes]
  refine ⟨?_, rfl⟩
  split
  · rfl
  · exact update_other _ _ n

/-- The record of a spoke after an isolation request. -/
theorem isolate_here (s : State) (i : SpokeId) (r : Reason) : (s.isolate i r).spokes[i] =
    if s.spokes[i].hold.isolates then s.spokes[i] else
      { s.spokes[i] with hold := .isolate r, state := stateWhenIsolated r s.spokes[i].state, settle := 0 } := by
  rw [isolate_spokes]
  split
  · rfl
  · exact update_same _ _ _

theorem endTraining_spokes (s : State) (i : SpokeId) : (s.endTraining i).spokes =
    update s.spokes i fun r => { r with elapsed := 0, nextPoll := 1, outstanding := false } := rfl

theorem endTraining_links (s : State) (i : SpokeId) : (s.endTraining i).links =
    update s.links i fun l => { l with requests := l.requests.filter (· ≠ .hello) } := rfl

theorem endTraining_only (s : State) (i : SpokeId) : OnlySpoke i s (s.endTraining i) :=
  .of_update (endTraining_spokes s i) (endTraining_links s i)

theorem endTraining_here (s : State) (i : SpokeId) :
    (s.endTraining i).spokes[i] = { s.spokes[i] with elapsed := 0, nextPoll := 1, outstanding := false } :=
  mapSpoke_here s i _

theorem mapLink_here (s : State) (i : SpokeId) (f : Link → Link) : (s.mapLink i f).links[i] = f s.links[i] :=
  update_same _ _ _

theorem endTraining_locked (s : State) (i : SpokeId) : (s.endTraining i).links[i].locked = s.links[i].locked := by
  show ((s.mapSpoke i _).mapLink i _).links[i].locked = _
  rw [mapLink_here]
  rfl

theorem request_locked (q : Request) (l : Link) : (l.request q).locked = l.locked := by
  unfold Link.request
  split <;> rfl

/-! ### What a record is in each state -/

theorem coherent_not_isolated_hold {b : Bool} {r : SpokeRec} (h : r.coherent b = true)
    (hs : r.state = .live ∨ r.state = .quiet) : r.hold.isolates = false := by
  unfold SpokeRec.coherent at h
  rcases hs with hs | hs <;> rw [hs] at h <;> simp at h
  · rw [h.1.1]; rfl
  · rw [h.1.1.1]; rfl

/-- A record whose fields read by R25 are as before is coherent still. -/
theorem coherent_congr {b : Bool} {r q : SpokeRec} (hst : q.state = r.state) (hh : q.hold = r.hold)
    (hse : q.settle = r.settle) (hk : q.knownClass = r.knownClass) : q.coherent b = r.coherent b := by
  unfold SpokeRec.coherent
  rw [hst, hh, hse, hk]

theorem coherent_settle_start {b : Bool} {r : SpokeRec} (n : Nat) (h : r.coherent b = true) :
    (if r.state = .live then { r with settle := max r.settle n } else r).coherent b = true := by
  split
  · next hl => simpa [SpokeRec.coherent, hl] using h
  · exact h

theorem coherent_live {b : Bool} {r : SpokeRec} (n : Nat) (hk : r.knownClass.isSome = true) (hb : b = true) :
    { r with state := .live, hold := .none, settle := n : SpokeRec }.coherent b = true := by
  simp [SpokeRec.coherent, hk, hb]

theorem coherent_quiet {r : SpokeRec} (c : NodeClass) (hh : r.hold = .quiet) (hse : r.settle = 0) :
    { r with state := .quiet, knownClass := some c : SpokeRec }.coherent true = true := by
  simp [SpokeRec.coherent, hh, hse]

theorem coherent_training {b : Bool} {r : SpokeRec} (hse : r.settle = 0) (hk : r.knownClass = none) (hb : b = true) :
    { r with state := .training, elapsed := 0 : SpokeRec }.coherent b = true := by
  simp [SpokeRec.coherent, hse, hk, hb]

theorem coherent_dark_iff {b : Bool} {r : SpokeRec} (hs : r.state = .dark) :
    r.coherent b = true ↔ r.settle = 0 ∧ r.knownClass = none ∧ b = false := by
  simp [SpokeRec.coherent, hs, and_assoc]

theorem coherent_renamed {b : Bool} {r : SpokeRec} (c : NodeClass) (hd : r.state ≠ .dark) (ht : r.state ≠ .training)
    (h : r.coherent b = true) : { r with knownClass := some c : SpokeRec }.coherent b = true := by
  cases e : r.state <;> simp_all [SpokeRec.coherent]

theorem coherent_isolated {b : Bool} {r : SpokeRec} (reason : Reason) (h : r.coherent b = true) :
    { r with hold := .isolate reason, state := stateWhenIsolated reason r.state, settle := 0 : SpokeRec }.coherent b =
      true := by
  cases hs : r.state <;> cases reason <;> simp [SpokeRec.coherent, hs, stateWhenIsolated, Hold.isolates] at h ⊢ <;>
    simp_all

theorem coherent_boundary {b : Bool} {r : SpokeRec} (h : r.coherent b = true) : r.boundary.coherent b = true := by
  unfold SpokeRec.boundary
  cases hs : r.state <;> dsimp only <;> (repeat' split) <;> simp_all [SpokeRec.coherent]

theorem coherent_unsettled {b : Bool} {r : SpokeRec} (h : r.coherent b = true) (hs : r.state ≠ .live) : r.settle = 0 := by
  cases e : r.state <;> simp_all [SpokeRec.coherent]

theorem coherent_locked {b : Bool} {r : SpokeRec} (h : r.coherent b = true) (hs : r.state ≠ .dark) : b = true := by
  cases e : r.state <;> simp_all [SpokeRec.coherent]

theorem coherent_of_isolated {r : SpokeRec} (hs : r.state = .isolated) (hh : r.hold.isolates = true)
    (hse : r.settle = 0) : r.coherent true = true := by
  simp [SpokeRec.coherent, hs, hh, hse]

/-! ### The operations -/

theorem mapSpoke_keepsSpokes (s : State) (i : SpokeId) (f : SpokeRec → SpokeRec)
    (h : ∀ b, s.spokes[i].coherent b = true → (f s.spokes[i]).coherent b = true) : KeepsSpokes s (s.mapSpoke i f) :=
  (mapSpoke_only s i f).keeps fun hs => by rw [mapSpoke_here]; exact h _ (hs i)

theorem mapSpoke_congr_keepsSpokes (s : State) (i : SpokeId) (f : SpokeRec → SpokeRec)
    (hst : (f s.spokes[i]).state = s.spokes[i].state) (hh : (f s.spokes[i]).hold = s.spokes[i].hold)
    (hse : (f s.spokes[i]).settle = s.spokes[i].settle) (hk : (f s.spokes[i]).knownClass = s.spokes[i].knownClass) :
    KeepsSpokes s (s.mapSpoke i f) :=
  mapSpoke_keepsSpokes s i f fun _ h => by rw [coherent_congr hst hh hse hk]; exact h

theorem mapLink_keepsSpokes (s : State) (i : SpokeId) (f : Link → Link) (h : (f s.links[i]).locked = s.links[i].locked) :
    KeepsSpokes s (s.mapLink i f) :=
  (mapLink_only s i f).keeps fun hs => by rw [mapLink_here, h]; exact hs i

theorem raise_keepsSpokes (s : State) (c : ChannelId) (src : Option Nat) (d : Detail) : KeepsSpokes s (s.raise c src d) :=
  .of_eq rfl rfl

theorem isolate_keepsSpokes (s : State) (i : SpokeId) (r : Reason) : KeepsSpokes s (s.isolate i r) :=
  (isolate_only s i r).keeps fun hs => by
    rw [isolate_here, isolate_links]
    split
    · exact hs i
    · exact coherent_isolated r (hs i)

theorem settleStart_keepsSpokes (s : State) (i : SpokeId) (n : Nat) : KeepsSpokes s (s.settleStart i n) :=
  mapSpoke_keepsSpokes s i _ fun _ h => coherent_settle_start n h

theorem classCheck_keepsSpokes (s : State) (i : SpokeId) : KeepsSpokes s (s.classCheck i) := by
  unfold State.classCheck
  split
  · split
    · exact .refl s
    · split
      · exact .refl s
      · exact isolate_keepsSpokes s i _
  · exact .refl s

/-- Entry to LIVE of a spoke with a known class and a locked link. -/
theorem enterLive_keepsSpokes (s : State) (i : SpokeId)
    (h : SpokesCoherent s → s.spokes[i].knownClass.isSome = true ∧ s.links[i].locked = true) :
    KeepsSpokes s (s.enterLive i) := by
  rw [enterLive_eq]
  refine KeepsSpokes.trans ((mapSpoke_only s i _).keeps fun hs => ?_) (classCheck_keepsSpokes _ i)
  rw [mapSpoke_here]
  exact coherent_live _ (h hs).1 (h hs).2

theorem qualify_keepsSpokes (s : State) (i : SpokeId) (k : FaultKind) (d : Detail) : KeepsSpokes s (s.qualify i k d) := by
  unfold State.qualify
  dsimp only
  split
  · exact (raise_keepsSpokes s _ _ _).trans (isolate_keepsSpokes _ i _)
  · exact raise_keepsSpokes s _ _ _

theorem setQual_keepsSpokes (s : State) (i : SpokeId) (k : FaultKind) (q : QualRec) : KeepsSpokes s (s.setQual i k q) :=
  .of_eq rfl rfl

theorem frameErrors_keepsSpokes (s : State) (i : SpokeId) : KeepsSpokes s (s.frameErrors i) := by
  unfold State.frameErrors
  dsimp only
  split
  · exact .refl s
  split
  · exact qualify_keepsSpokes s i _ _
  · split
    · split
      · exact (setQual_keepsSpokes s i _ _).trans (qualify_keepsSpokes _ i _ _)
      · exact setQual_keepsSpokes s i _ _
    · split
      · exact (setQual_keepsSpokes s i _ _).trans (qualify_keepsSpokes _ i _ _)
      · exact setQual_keepsSpokes s i _ _
    · exact .refl s
    · exact .refl s
  · exact .refl s
  · exact .refl s

theorem evaluateCondition_keepsSpokes (s : State) (i : SpokeId) (k : FaultKind) :
    KeepsSpokes s (s.evaluateCondition i k) := by
  unfold State.evaluateCondition
  dsimp only
  have measured (m : Option Nat) (tr : Bool) (t : State) :
      KeepsSpokes t (match m with | some m => t.raiseDuration i k m tr | none => t) := by
    split
    · exact raise_keepsSpokes t _ _ _
    · exact .refl t
  split
  · exact ((setQual_keepsSpokes s i k _).trans (measured _ _ _)).trans (qualify_keepsSpokes _ i k _)
  · exact (setQual_keepsSpokes s i k _).trans (measured _ _ _)

theorem evaluate_keepsSpokes (s : State) (i : SpokeId) (k : FaultKind) : KeepsSpokes s (s.evaluate i k) := by
  by_cases d : s.spokes[i].state = .dark
  case pos => rw [evaluate_dark s i k d]; exact .refl s
  case neg =>
    by_cases hk : k = .frameErrors
    case pos =>
      rw [hk, evaluate_errors s i d]
      unfold State.frameErrorsBoundary
      dsimp only
      split
      case h_1 | h_2 => exact setQual_keepsSpokes s i _ _
      case h_3 | h_4 => exact .refl s
    case neg => rw [evaluate_condition s i k d hk]; exact evaluateCondition_keepsSpokes s i k

theorem evaluateTurn_keepsSpokes (s : State) (i : SpokeId) : KeepsSpokes s (s.evaluateTurn i) := by
  unfold State.evaluateTurn
  split
  · exact (due_keepsSpokes s _).trans (keepsSpokes_foldl _ (fun t k => evaluate_keepsSpokes t i k) _ _)
  · exact .refl s

theorem enterDark_spokes (s : State) (i : SpokeId) :
    (s.enterDark i).spokes = update s.spokes i fun r => .dark r.hold := by
  obtain ⟨_, _, _, _, h, -⟩ := enterDark_frame s i
  rw [h]

theorem enterDark_links (s : State) (i : SpokeId) :
    (s.enterDark i).links = update s.links i fun l => { l with requests := [], sending := none } := by
  obtain ⟨_, _, _, _, h, -⟩ := enterDark_frame s i
  rw [h]

/-- Entry to DARK with the link dropped. -/
theorem enterDark_dropped_keepsSpokes (s : State) (i : SpokeId) :
    KeepsSpokes s ((s.enterDark i).mapLink i fun _ => .dropped) := by
  have dark : OnlySpoke i s (s.enterDark i) := .of_update (enterDark_spokes s i) (enterDark_links s i)
  refine (dark.trans (mapLink_only _ i _)).keeps fun _ => ?_
  rw [mapLink_here, mapLink_spokes, enterDark_spokes, update_same]
  rfl

theorem linkLoss_keepsSpokes (s : State) (i : SpokeId) : KeepsSpokes s (s.linkLoss i) := by
  unfold State.linkLoss
  split
  · exact .refl s
  · exact (enterDark_dropped_keepsSpokes s i).trans (raise_keepsSpokes _ _ _ _)

theorem enterTraining_spokes (s : State) (i : SpokeId) :
    (s.enterTraining i).spokes = update s.spokes i fun r => { r with state := .training, elapsed := 0 } := rfl

theorem enterTraining_links (s : State) (i : SpokeId) :
    (s.enterTraining i).links = update s.links i (Link.request .hello) := rfl

theorem enterTraining_here (s : State) (i : SpokeId) :
    (s.enterTraining i).spokes[i] = { s.spokes[i] with state := .training, elapsed := 0 } := mapSpoke_here s i _

theorem enterTraining_locked (s : State) (i : SpokeId) : (s.enterTraining i).links[i].locked = s.links[i].locked := by
  have link : (s.enterTraining i).links[i] = s.links[i].request .hello := mapLink_here _ i _
  rw [link, request_locked]

theorem enterTraining_only (s : State) (i : SpokeId) : OnlySpoke i s (s.enterTraining i) :=
  .of_update (enterTraining_spokes s i) (enterTraining_links s i)

theorem linkLock_keepsSpokes (s : State) (i : SpokeId) : KeepsSpokes s (s.linkLock i) := by
  unfold State.linkLock
  split
  · next h =>
    refine ((mapLink_only s i _).trans (enterTraining_only _ i)).keeps fun hs => ?_
    obtain ⟨hse, hk, -⟩ := (coherent_dark_iff h.1).mp (hs i)
    rw [enterTraining_here, enterTraining_locked, mapLink_here]
    exact coherent_training hse hk rfl
  · exact .refl s

/-- An isolation request on a spoke that has left TRAINING, and its entry to ISOLATED. -/
theorem isolate_to_isolated_keepsSpokes (s : State) (i : SpokeId) (r : Reason) (h : s.spokes[i].state = .training) :
    KeepsSpokes s ((s.isolate i r).mapSpoke i fun x => { x with state := .isolated }) :=
  OnlySpoke.keeps ((isolate_only s i r).trans (mapSpoke_only _ i _)) fun hs => by
    have unlive : s.spokes[i].state ≠ .live := by rw [h]; decide
    have lit : s.spokes[i].state ≠ .dark := by rw [h]; decide
    rw [mapSpoke_here, mapSpoke_links, isolate_links, isolate_here, coherent_locked (hs i) lit]
    split
    · next held =>
      have settled : s.spokes[i].settle = 0 := coherent_unsettled (hs i) unlive
      exact coherent_of_isolated rfl held settled
    · exact coherent_of_isolated rfl rfl rfl

theorem endTraining_keepsSpokes (s : State) (i : SpokeId) : KeepsSpokes s (s.endTraining i) :=
  (endTraining_only s i).keeps fun hs => by
    rw [endTraining_here, endTraining_locked]
    exact (coherent_congr (r := s.spokes[i]) rfl rfl rfl rfl).trans (hs i)

theorem endTraining_state (s : State) (i : SpokeId) : (s.endTraining i).spokes[i].state = s.spokes[i].state := by
  rw [endTraining_here]

theorem trainRaise_keepsSpokes (s : State) (i : SpokeId) : KeepsSpokes s (s.trainRaise i) := by
  unfold State.trainRaise
  dsimp only
  split
  · exact .refl s
  · next h =>
    have ht : s.spokes[i].state = .training := not_not.mp h
    split
    · exact (endTraining_keepsSpokes s i).trans
        (isolate_to_isolated_keepsSpokes _ i _ ((endTraining_state s i).trans ht))
    · have count : KeepsSpokes s (s.mapSpoke i fun r => { r with elapsed := s.spokes[i].elapsed + 1 }) :=
        mapSpoke_congr_keepsSpokes s i _ rfl rfl rfl rfl
      split
      · exact count.trans (mapLink_keepsSpokes _ i _ (request_locked _ _))
      · exact count

theorem trainTurn_keepsSpokes (s : State) (i : SpokeId) : KeepsSpokes s (s.trainTurn i) := by
  unfold State.trainTurn
  split
  · exact (due_keepsSpokes s _).trans (trainRaise_keepsSpokes _ i)
  · exact .refl s

theorem completeReport_keepsSpokes (s : State) (i : SpokeId) (rep : Report) : KeepsSpokes s (s.completeReport i rep) := by
  have assembled := mapSpoke_congr_keepsSpokes s i (fun r => { r with assembly := none }) rfl rfl rfl rfl
  unfold State.completeReport
  refine assembled.trans ?_
  dsimp only
  split
  · exact .refl _
  · split
    · exact mapSpoke_congr_keepsSpokes _ i _ rfl rfl rfl rfl
    · exact (mapSpoke_congr_keepsSpokes _ i _ rfl rfl rfl rfl).trans (raise_keepsSpokes _ _ _ _)

theorem reportByte_keepsSpokes (s : State) (i : SpokeId) (b : Byte) : KeepsSpokes s (s.reportByte i b) := by
  have assembled (a : List Byte) := mapSpoke_congr_keepsSpokes s i (fun r => { r with assembly := some a }) rfl rfl rfl rfl
  unfold State.reportByte
  split
  · exact .refl s
  · split
    · split
      · exact assembled _
      · exact .refl s
    · split
      · exact assembled _
      · exact completeReport_keepsSpokes s i _
    · dsimp only
      split
      · exact completeReport_keepsSpokes s i _
      · exact assembled _

theorem helloInTraining_keepsSpokes (s : State) (i : SpokeId) (c : NodeClass) (h : s.spokes[i].state = .training) :
    KeepsSpokes s (s.helloInTraining i c) := by
  have ended := endTraining_keepsSpokes s i
  have state := (endTraining_state s i).trans h
  unfold State.helloInTraining
  refine ended.trans ?_
  dsimp only
  generalize s.endTraining i = u at state ⊢
  have unlive : u.spokes[i].state ≠ .live := by rw [state]; decide
  have lit : u.spokes[i].state ≠ .dark := by rw [state]; decide
  split
  · exact isolate_to_isolated_keepsSpokes u i _ state
  · rw [mapSpoke_here]
    split
    · next r held =>
      have hold : u.spokes[i].hold.isolates = true := by rw [show u.spokes[i].hold = _ from held]; rfl
      rw [mapSpoke_twice]
      refine (mapSpoke_only u i _).keeps fun hs => ?_
      have settled : u.spokes[i].settle = 0 := coherent_unsettled (hs i) unlive
      rw [mapSpoke_here, mapSpoke_links, coherent_locked (hs i) lit]
      exact coherent_of_isolated rfl hold settled
    · next held =>
      rw [mapSpoke_twice]
      refine (mapSpoke_only u i _).keeps fun hs => ?_
      have settled : u.spokes[i].settle = 0 := coherent_unsettled (hs i) unlive
      rw [mapSpoke_here, mapSpoke_links, coherent_locked (hs i) lit]
      exact coherent_quiet c held settled
    · rw [enterLive_eq]
      have raised : OnlySpoke i u ((u.mapSpoke i fun r => { r with knownClass := some c }).raise chLinkUp (some i.val) .none) :=
        (mapSpoke_only u i _).trans (raise_only _ i _ _ _)
      refine KeepsSpokes.trans ((raised.trans (mapSpoke_only _ i _)).keeps fun hs => ?_) (classCheck_keepsSpokes _ i)
      rw [mapSpoke_here, raise_spokes, mapSpoke_here]
      exact coherent_live _ rfl (coherent_locked (hs i) lit)

theorem helloTaken_keepsSpokes (s : State) (i : SpokeId) (c : NodeClass) (hd : s.spokes[i].state ≠ .dark)
    (ht : s.spokes[i].state ≠ .training) : KeepsSpokes s (s.helloTaken i c) := by
  unfold State.helloTaken
  split
  · refine OnlySpoke.keeps ((mapSpoke_only s i _).trans (isolate_only _ i _)) fun hs => ?_
    have locked := coherent_locked (hs i) hd
    rw [isolate_here, isolate_links, mapSpoke_links, mapSpoke_here, locked]
    have here := hs i
    rw [locked] at here
    cases e : s.spokes[i].state with
    | dark => exact absurd e hd
    | training => exact absurd e ht
    | live =>
      rw [if_neg (by rw [show s.spokes[i].hold.isolates = false from coherent_not_isolated_hold here (.inl e)]; decide)]
      exact coherent_of_isolated rfl rfl rfl
    | quiet =>
      rw [if_neg (by rw [show s.spokes[i].hold.isolates = false from coherent_not_isolated_hold here (.inr e)]; decide)]
      exact coherent_of_isolated rfl rfl rfl
    | isolated =>
      have settled : s.spokes[i].settle = 0 := coherent_unsettled here (by rw [e]; decide)
      split
      · next held => exact coherent_of_isolated rfl held settled
      · exact coherent_of_isolated rfl rfl rfl
  · split
    · split
      · exact (settleStart_keepsSpokes s i _).trans (mapSpoke_congr_keepsSpokes _ i _ rfl rfl rfl rfl)
      · exact .refl s
    · refine KeepsSpokes.trans (mapSpoke_keepsSpokes s i _ fun b h => ?_) (classCheck_keepsSpokes _ i)
      exact coherent_renamed c hd ht h

theorem actOnReport_keepsSpokes (s : State) (i : SpokeId) (rep : Report) : KeepsSpokes s (s.actOnReport i rep) := by
  cases rep with
  | damaged k => exact frameErrors_keepsSpokes s i
  | health t o u => exact mapSpoke_congr_keepsSpokes s i _ rfl rfl rfl rfl
  | fault c => exact mapSpoke_congr_keepsSpokes s i _ rfl rfl rfl rfl
  | clear c => exact mapSpoke_congr_keepsSpokes s i _ rfl rfl rfl rfl
  | hello c =>
    unfold State.actOnReport
    dsimp only
    split
    · next h => exact helloInTraining_keepsSpokes s i c h
    · next h => exact helloTaken_keepsSpokes s i c (by rw [h]; decide) (by rw [h]; decide)
    · next h => exact helloTaken_keepsSpokes s i c (by rw [h]; decide) (by rw [h]; decide)
    · next h => exact helloTaken_keepsSpokes s i c (by rw [h]; decide) (by rw [h]; decide)
    · exact .refl s

theorem takeFrom_keepsSpokes (s : State) (found : Option SpokeId) : KeepsSpokes s (s.takeFrom found) := by
  unfold State.takeFrom
  split
  · exact .refl s
  · split
    · exact due_keepsSpokes s _
    · next i =>
      dsimp only
      have found (d : Due) : KeepsSpokes s { s with due := d, takerPos := i } := .of_eq rfl rfl
      split
      · exact found _
      · exact ((found _).trans (mapSpoke_congr_keepsSpokes _ i _ rfl rfl rfl rfl)).trans
          (actOnReport_keepsSpokes _ _ _)

theorem lateReports_keepsSpokes (s : State) : KeepsSpokes s s.lateReports := by
  have taken (t : State) : KeepsSpokes t (t.takeFrom t.nextWaiting) := takeFrom_keepsSpokes t _
  exact ((((taken s).trans (taken _)).trans (taken _)).trans (taken _)).trans (due_keepsSpokes _ _)

theorem tellEngine_keepsSpokes (s : State) (i : SpokeId) : KeepsSpokes s (s.tellEngine i) := by
  rw [tellEngine_frame]
  exact .of_eq rfl rfl

theorem settleTurn_keepsSpokes (s : State) (i : SpokeId) : KeepsSpokes s (s.settleTurn i) := by
  unfold State.settleTurn
  split
  · dsimp only
    split
    · exact (due_keepsSpokes s _).trans (tellEngine_keepsSpokes _ i)
    · exact due_keepsSpokes s _
  · exact .refl s

theorem pollTurn_keepsSpokes (s : State) (i : SpokeId) : KeepsSpokes s (s.pollTurn i) := by
  unfold State.pollTurn
  split
  · exact ((due_keepsSpokes s _).trans (mapSpoke_congr_keepsSpokes _ i _ rfl rfl rfl rfl)).trans
      (mapLink_keepsSpokes _ i _ (request_locked _ _))
  · exact .refl s

theorem moveAcross_keepsSpokes (s : State) (i : SpokeId) (up : Bool) (l : Fin 33) (p : Params) :
    KeepsSpokes s (s.moveAcross i up l p) := by
  unfold State.moveAcross
  refine KeepsSpokes.trans (t := s.mapEngine fun e => { e with line := l, current := some ⟨i, up, false, 0⟩ })
    (.of_eq rfl rfl) ?_
  dsimp only
  split
  · have settled (t : State) : KeepsSpokes t ((t.settleStart i p.settle).classCheck i) :=
      (settleStart_keepsSpokes t i _).trans (classCheck_keepsSpokes _ i)
    split
    · exact (settled _).trans (tellEngine_keepsSpokes _ i)
    · exact settled _
  · exact tellEngine_keepsSpokes _ i

theorem stepTurn_keepsSpokes (s : State) : KeepsSpokes s s.stepTurn := by
  unfold State.stepTurn
  split
  · refine KeepsSpokes.trans (t := { s with due := { s.due with step := false } }) (.of_eq rfl rfl) ?_
    dsimp only
    split
    · unfold State.takeStep
      split
      · exact .refl _
      · split
        · exact moveAcross_keepsSpokes _ _ _ _ _
        · split
          · exact moveAcross_keepsSpokes _ _ _ _ _
          · exact .refl _
    · exact .refl _
  · exact .refl s

theorem groupTurn_keepsSpokes (s : State) (g : GroupId) : KeepsSpokes s (s.groupTurn g) := by
  have crowded : KeepsSpokes s (s.crowdTurn g) := by
    unfold State.crowdTurn
    split
    · obtain ⟨r, c, e, n, d, h⟩ := crowd_frame (s.clearGroupTurn g) g
      rw [h]
      exact .of_eq rfl rfl
    · exact .refl s
  unfold State.groupTurn
  split
  · exact crowded
  · unfold State.calmTurn
    split
    · exact .of_eq rfl rfl
    · exact .refl s

theorem captureEvent_keepsSpokes (s : State) : KeepsSpokes s s.captureEvent := by
  unfold State.captureEvent
  rw [decideCollection_frame]
  exact .of_eq rfl rfl

theorem storeTurn_keepsSpokes (s : State) (b : Bool) : KeepsSpokes s (s.storeTurn b) := by
  unfold State.storeTurn State.readEnd State.eraseEnd State.writeEnd State.lockEnd
  repeat' split
  all_goals exact .of_eq rfl rfl

theorem takeTurn_keepsSpokes (s : State) (t : Turn) : KeepsSpokes s (s.takeTurn t) := by
  cases t with
  | report => exact takeFrom_keepsSpokes s _
  | train i => exact trainTurn_keepsSpokes s i
  | settleEnd i => exact settleTurn_keepsSpokes s i
  | poll i => exact pollTurn_keepsSpokes s i
  | group g => exact groupTurn_keepsSpokes s g
  | cutover => exact stepTurn_keepsSpokes s
  | evaluate i => exact evaluateTurn_keepsSpokes s i
  | captureEnd =>
    show KeepsSpokes s s.captureEndTurn
    unfold State.captureEndTurn
    split
    · exact captureEvent_keepsSpokes s
    · exact .refl s
  | captureStart =>
    show KeepsSpokes s s.captureStartTurn
    unfold State.captureStartTurn
    split
    · exact captureEvent_keepsSpokes s
    · exact .refl s
  | storeEnd b => exact storeTurn_keepsSpokes s b
  | abandon =>
    show KeepsSpokes s s.abandonTurn
    rw [abandonTurn_frame]
    exact .of_eq rfl rfl

theorem takeTurns_keepsSpokes (s : State) (ts : List Turn) : KeepsSpokes s (s.takeTurns ts) :=
  keepsSpokes_foldl _ takeTurn_keepsSpokes ts s

theorem freeStoreEnd_keepsSpokes (s : State) : KeepsSpokes s s.freeStoreEnd := by
  unfold State.freeStoreEnd
  split
  · split
    case h_1 | h_2 =>
      have used : KeepsSpokes s { s with freeCount := s.freeCount + 1 } := .of_eq rfl rfl
      exact used.trans (storeTurn_keepsSpokes _ _)
    all_goals exact storeTurn_keepsSpokes s _
  · exact .refl s

theorem closeBoundary_keepsSpokes (s : State) : KeepsSpokes s s.closeBoundary := by
  unfold State.closeBoundary
  split
  · refine KeepsSpokes.trans ?_ (due_keepsSpokes _ _)
    refine KeepsSpokes.trans ?_ (takeTurn_keepsSpokes _ .abandon)
    refine KeepsSpokes.trans ?_ (freeStoreEnd_keepsSpokes _)
    refine KeepsSpokes.trans ?_ (takeTurns_keepsSpokes _ _)
    refine KeepsSpokes.trans ?_ (takeTurns_keepsSpokes _ _)
    exact ((lateReports_keepsSpokes s).trans (takeTurns_keepsSpokes _ _)).trans (takeTurns_keepsSpokes _ _)
  · exact .refl s

theorem evaluateRest_keepsSpokes (s : State) : KeepsSpokes s s.evaluateRest := by
  apply keepsSpokes_foldl
  intro t e
  split
  · exact .refl t
  · exact evaluateTurn_keepsSpokes t _

theorem advance_keepsSpokes (s : State) : KeepsSpokes s s.advance := by
  refine ⟨fun h i => ?_⟩
  show (mapTable SpokeRec.boundary s.spokes)[i].coherent s.links[i].locked = true
  rw [mapTable_get]
  exact coherent_boundary (h i)

theorem samplePeriod_keepsSpokes (s : State) (p : SamplePeriod) : KeepsSpokes s (s.samplePeriod p) := by
  refine ⟨fun h i => ?_⟩
  show s.spokes[i].coherent (mapTable (fun l : Link => { l with damaged := l.damaged - 1 }) s.links)[i].locked = true
  rw [mapTable_get]
  exact h i

end Sys2Proof.Machine
end

section
/-! What every step keeps: each operation of the Management Lane, each command and each event of the table keeps the seven
invariants of the hub (R25, R51, R68, R75, R129, R138, R153, R156, R158, R162). -/

namespace Sys2Proof.Machine

/-! ## The lane's bounds (R156, R158, R162) -/

/-- The lane's part of LaneBounded. -/
structure Lane.Bounded (l : Lane) : Prop where
  intake : l.intake.length ≤ 2
  outbound : l.outbound.length ≤ 8
  notices : (l.outbound.filter Message.isNotice).length ≤ 6
  holder : noNotice l.holder = true
  held : noNotice l.held = true
  assembly : assemblyOpen l.assembly = true

theorem laneBounded_iff (s : State) : LaneBounded s ↔ s.lane.Bounded :=
  ⟨fun ⟨a, b, c, d, e, f⟩ => ⟨a, b, c, d, e, f⟩, fun ⟨a, b, c, d, e, f⟩ => ⟨a, b, c, d, e, f⟩⟩

/-- A response at the tail of the queue, where a place is free. -/
theorem response_fits {q : List Message} {m : Message} (hm : m.isNotice = false) (room : q.length < 8)
    (notices : (q.filter Message.isNotice).length ≤ 6) :
    (q ++ [m]).length ≤ 8 ∧ ((q ++ [m]).filter Message.isNotice).length ≤ 6 := by
  refine ⟨by rw [List.length_append]; exact room, ?_⟩
  rw [List.filter_append, List.filter_singleton, hm]
  simpa using notices

/-- Notices at the tail of the queue, with two places left to the responses. -/
theorem notices_fit {q l : List Message} (room : q.length + l.length ≤ 6) :
    (q ++ l).length ≤ 8 ∧ ((q ++ l).filter Message.isNotice).length ≤ 6 := by
  have few := List.length_filter_le Message.isNotice (q ++ l)
  rw [List.length_append] at few ⊢
  omega

theorem takeHolder_bounded {l : Lane} (h : l.Bounded) : l.takeHolder.Bounded := by
  rcases hm : l.holder with _ | m
  case none => rw [takeHolder_none hm]; exact h
  case some =>
    by_cases room : l.outbound.length < 8
    case pos =>
      have response : m.isNotice = false := by simpa [noNotice, hm] using h.holder
      obtain ⟨fits, few⟩ := response_fits response room h.notices
      rw [takeHolder_room hm room]
      exact ⟨h.intake, fits, few, rfl, h.held, h.assembly⟩
    case neg => rw [takeHolder_full (by omega)]; exact h

theorem takeHeld_bounded {l : Lane} (h : l.Bounded) : l.takeHeld.Bounded := by
  rcases hm : l.held with _ | m
  case none => rw [takeHeld_none hm]; exact h
  case some =>
    by_cases room : l.outbound.length < 8
    case pos =>
      have response : m.isNotice = false := by simpa [noNotice, hm] using h.held
      obtain ⟨fits, few⟩ := response_fits response room h.notices
      rw [takeHeld_room hm room]
      exact ⟨h.intake, fits, few, h.holder, rfl, h.assembly⟩
    case neg => rw [takeHeld_full (by omega)]; exact h

theorem takeResponses_bounded {l : Lane} (h : l.Bounded) : l.takeResponses.Bounded :=
  takeHeld_bounded (takeHolder_bounded h)

theorem resync_bounded {l : Lane} (tag : Byte) (h : l.Bounded) : (l.resync tag).Bounded := by
  have taken := takeResponses_bounded h
  exact takeResponses_bounded
    ⟨taken.intake, taken.outbound, taken.notices, rfl, taken.held, taken.assembly⟩

theorem leave_bounded {l : Lane} (h : l.Bounded) : l.leave.Bounded := by
  unfold Lane.leave
  split
  · next m rest hq =>
    have fits := h.outbound
    have few := h.notices
    rw [hq, List.length_cons] at fits
    rw [hq, List.filter_cons] at few
    have fewer : (rest.filter Message.isNotice).length ≤ 6 := by
      split at few
      · rw [List.length_cons] at few; omega
      · exact few
    exact ⟨h.intake, by show rest.length ≤ 8; omega, fewer, h.holder, h.held, h.assembly⟩
  · exact h

theorem lane_reset_bounded {l : Lane} (hi : l.intake = []) (ho : l.outbound = []) (hr : l.holder = none)
    (hd : l.held = none) (ha : l.assembly = none) : l.Bounded := by
  refine ⟨?_, ?_, ?_, ?_, ?_, ?_⟩ <;> simp [hi, ho, hr, hd, ha, noNotice, assemblyOpen]

/-! ## Channels -/

theorem absorb_sources (e : SourceEntry) (l : List SourceEntry) : (absorb e l).map (·.source) =
    if e.source ∈ l.map (·.source) then l.map (·.source) else l.map (·.source) ++ [e.source] := by
  induction l with
  | nil => simp [absorb]
  | cons x xs ih =>
    unfold absorb
    by_cases h : x.source = e.source
    · simp [h]
    · have h' : ¬ e.source = x.source := fun y => h y.symm
      simp only [h, if_false, List.map_cons, ih, List.mem_cons, h', false_or]
      split <;> simp

theorem absorb_nodup {e : SourceEntry} {l : List SourceEntry} (h : (l.map (·.source)).Nodup) :
    ((absorb e l).map (·.source)).Nodup := by
  rw [absorb_sources]
  split
  · exact h
  · next new => exact h.append (by simp) (by simpa using new)

theorem mergeEntries_nodup (l : List SourceEntry) : ((mergeEntries l).map (·.source)).Nodup := by
  unfold mergeEntries
  have fold : ∀ acc : List SourceEntry, (acc.map (·.source)).Nodup →
      ((l.foldl (fun acc e => absorb e acc) acc).map (·.source)).Nodup := by
    induction l with
    | nil => exact fun _ h => h
    | cons e l ih => exact fun acc h => ih _ (absorb_nodup h)
  exact fold [] (by simp)

theorem handBack_ordered {tr : Bool} {c : Channel} (back : List SourceEntry) (h : c.ordered tr) :
    (c.handBack back).ordered tr := by
  unfold Channel.handBack
  split
  · next hb =>
    simp only [Bool.and_eq_true] at hb
    exact ⟨fun off => by simp [hb.1] at off, mergeEntries_nodup _, fun _ => rfl⟩
  · exact h

theorem setEnabled_ordered {tr : Bool} {c : Channel} (on off : Bool) (h : c.ordered tr) : (c.setEnabled on off).ordered tr := by
  obtain ⟨silent, once, service⟩ := h
  unfold Channel.setEnabled
  split
  · exact ⟨fun _ => rfl, by simp, service⟩
  · split
    · exact ⟨nofun, once, service⟩
    · exact ⟨silent, once, service⟩

theorem setMasked_ordered {tr : Bool} {c : Channel} (m u : Bool) (h : c.ordered tr) : (c.setMasked m u).ordered tr := by
  unfold Channel.setMasked
  split
  · exact h
  · split <;> exact h

theorem serviceEnded_ordered {tr tr' : Bool} {c : Channel} (h : c.ordered tr) :
    { c with inService := false : Channel }.ordered tr' := ⟨h.1, h.2.1, fun _ => rfl⟩

theorem presented_ordered {tr : Bool} {c : Channel} (h : c.ordered tr) :
    { c with list := [], inService := tr || c.inService : Channel }.ordered tr :=
  ⟨fun _ => rfl, by simp, fun off => by simp [off, h.2.2 off]⟩

/-! ## All invariants together -/

/-- The second state is in good order where the first is. -/
structure Keeps (s t : State) : Prop where
  lane : s.lane.Bounded → t.lane.Bounded
  spokes : KeepsSpokes s t
  bound : BoundReady s → BoundReady t
  pointer : PointerStaged s → PointerStaged t
  channels : ChannelsOrdered s → ChannelsOrdered t
  engine : s.engine.coherent → t.engine.coherent
  locked : s.store.locked = true → t.store.locked = true

theorem Keeps.refl (s : State) : Keeps s s := ⟨id, .refl s, id, id, id, id, id⟩

theorem Keeps.trans {s t u : State} (h : Keeps s t) (k : Keeps t u) : Keeps s u :=
  ⟨fun x => k.lane (h.lane x), h.spokes.trans k.spokes, fun x => k.bound (h.bound x), fun x => k.pointer (h.pointer x),
    fun x => k.channels (h.channels x), fun x => k.engine (h.engine x), fun x => k.locked (h.locked x)⟩

theorem keeps_foldl {α : Type} (f : State → α → State) (h : ∀ s a, Keeps s (f s a)) (l : List α) (s : State) :
    Keeps s (l.foldl f s) := by
  induction l generalizing s with
  | nil => exact .refl s
  | cons a l ih => exact (h s a).trans (ih _)

/-- What an event of the blocks keeps. -/
theorem Keeps.of_moved {s t : State} (h : Moved s t) (spokes : KeepsSpokes s t) : Keeps s t where
  lane b := by
    rw [h.lane]
    refine ⟨b.intake, b.outbound, b.notices, b.holder, b.held, ?_⟩
    rcases h.assembly with e | e <;> rw [e]
    · exact b.assembly
    · rfl
  spokes := spokes
  bound b k hk := by rw [h.slots]; exact b k (h.engine.holds k hk)
  pointer b := by unfold PointerStaged; rw [h.pointer, h.staging]; exact b
  channels b c := by rw [h.tracking]; exact h.channels c (b c)
  engine := h.engine.coherent
  locked b := by rw [h.locked]; exact b

/-- A lane that stays within its bounds. -/
theorem mapLane_keeps (s : State) (f : Lane → Lane) (h : s.lane.Bounded → (f s.lane).Bounded) : Keeps s (s.mapLane f) :=
  ⟨h, .of_eq rfl rfl, id, id, id, id, id⟩

/-- A change of fields that no invariant reads. -/
theorem Keeps.of_eq {s t : State} (lane : t.lane = s.lane) (spokes : KeepsSpokes s t) (engine : t.engine = s.engine)
    (slots : t.slots = s.slots) (pointer : t.pointer = s.pointer) (staging : t.staging = s.staging)
    (channels : t.channels = s.channels) (tracking : t.tracking = s.tracking) (store : t.store.locked = s.store.locked) :
    Keeps s t where
  lane b := by rw [lane]; exact b
  spokes := spokes
  bound b := by unfold BoundReady; rw [engine, slots]; exact b
  pointer b := by unfold PointerStaged; rw [pointer, staging]; exact b
  channels b := by unfold ChannelsOrdered; rw [channels, tracking]; exact b
  engine b := by rw [engine]; exact b
  locked b := by rw [store]; exact b

/-- A change of the channels that keeps each one's order. -/
theorem Keeps.of_channels (s : State) (v : Vector Channel 16) (tr : Bool)
    (h : ∀ c : ChannelId, s.channels[c].ordered s.tracking → v[c].ordered tr) :
    Keeps s { s with channels := v, tracking := tr } :=
  ⟨id, .of_eq rfl rfl, id, id, fun b c => h c (b c), id, id⟩

/-- A change of the engine that binds only READY slots. -/
theorem Keeps.of_engine (s : State) (f : Engine → Engine)
    (bound : ∀ k, (f s.engine).holds k = true → s.engine.holds k = true ∨ s.slots[k].state = .ready)
    (coherent : s.engine.coherent → (f s.engine).coherent) : Keeps s (s.mapEngine f) where
  lane := id
  spokes := .of_eq rfl rfl
  bound b k hk := (bound k hk).elim (b k) id
  pointer := id
  channels := id
  engine := coherent
  locked := id

theorem raise_keeps (s : State) (c : ChannelId) (src : Option Nat) (d : Detail) : Keeps s (s.raise c src d) :=
  .of_moved (raise_moved s c src d) (raise_keepsSpokes s c src d)

/-! ## The Management Lane -/

theorem abandonTurn_keeps (s : State) : Keeps s s.abandonTurn :=
  .of_moved (abandonTurn_moved s) (takeTurn_keepsSpokes s .abandon)

theorem offer_keeps (s : State) (i : Instr) : Keeps s (s.offer i) := by
  unfold State.offer
  split
  · exact mapLane_keeps s _ fun b => ⟨b.intake, b.outbound, b.notices, b.holder, b.held, b.assembly⟩
  · split
    · next room =>
      refine mapLane_keeps s _ fun b => ⟨?_, b.outbound, b.notices, b.holder, b.held, b.assembly⟩
      rw [List.length_append]
      exact room
    · exact (mapLane_keeps s _ fun b => ⟨b.intake, b.outbound, b.notices, b.holder, b.held, b.assembly⟩).trans
        (raise_keeps _ _ _ _)

theorem takeCommand_keeps (s : State) (i : Instr) : Keeps s (s.takeCommand i) := by
  unfold State.takeCommand
  split
  · exact mapLane_keeps s _ (resync_bounded _)
  · exact offer_keeps s i

theorem assembly_keeps (s : State) (a : Option (List Byte)) (fed : Bool)
    (h : assemblyOpen s.lane.assembly = true → assemblyOpen a = true) :
    Keeps s (s.mapLane fun l => { l with assembly := a, fed := fed }) :=
  mapLane_keeps s _ fun b => ⟨b.intake, b.outbound, b.notices, b.holder, b.held, h b.assembly⟩

theorem completeMessage_keeps (s : State) (bytes : List Byte) : Keeps s (s.completeMessage bytes) := by
  unfold State.completeMessage
  refine (assembly_keeps s none s.lane.fed fun _ => rfl).trans ?_
  dsimp only
  split
  · exact takeCommand_keeps _ _
  · exact .refl _

theorem intakeByte_keeps (s : State) (b : Byte) : Keeps s (s.intakeByte b) := by
  have stays := intakeByte_open s b
  rcases e : s.lane.assembly with _ | _ | ⟨lead, _ | ⟨len, rest⟩⟩
  case some.cons.cons =>
    rw [intakeByte_more s b lead len rest e] at stays ⊢
    split at stays
    case isTrue h => rw [if_pos h]; exact completeMessage_keeps s _
    case isFalse h => rw [if_neg h]; exact assembly_keeps s _ true stays
  all_goals
    unfold State.intakeByte at stays ⊢
    rw [e] at stays ⊢
    dsimp only at stays ⊢
  case none =>
    split at stays
    case isTrue h => rw [if_pos h]; exact assembly_keeps s _ true (e ▸ stays)
    case isFalse h => rw [if_neg h]; exact .refl s
  case some.nil =>
    split at stays
    case isTrue h => rw [if_pos h]; exact completeMessage_keeps s _
    case isFalse h => rw [if_neg h]; exact assembly_keeps s _ true (e ▸ stays)
  case some.cons.nil =>
    split at stays
    case isTrue h => rw [if_pos h]; exact assembly_keeps s _ true (e ▸ stays)
    case isFalse h => rw [if_neg h]; exact assembly_keeps s none s.lane.fed fun _ => rfl

theorem received_keeps (s : State) (n : Nat) : Keeps s (s.mapLane fun l => { l with received := l.received + n }) :=
  mapLane_keeps s _ fun b => ⟨b.intake, b.outbound, b.notices, b.holder, b.held, b.assembly⟩

theorem inboundByte_keeps (s : State) (b : Byte) : Keeps s (s.inboundByte b) := by
  unfold State.inboundByte
  split
  · exact ((abandonTurn_keeps s).trans (received_keeps _ 1)).trans (intakeByte_keeps _ b)
  · exact .refl s

theorem receive_keeps (s : State) (i : Instr) : Keeps s (s.receive i) :=
  (abandonTurn_keeps s).trans (received_keeps _ _)

theorem deliver_keeps (s : State) (tag : Byte) (code : BitVec 6) (st : Status) (body : List Byte) :
    Keeps s (s.deliver (.response tag code st body)) := by
  unfold State.deliver
  split
  · exact mapLane_keeps s _ fun b =>
      takeResponses_bounded ⟨b.intake, b.outbound, b.notices, b.holder, rfl, b.assembly⟩
  · exact .refl s

theorem run_keeps {s : State} (i : Instr) {act : State → Reply} (h : Keeps s (act s).state) : Keeps s (s.run i act) := by
  unfold State.run
  refine Keeps.trans (t := (if i.wf then act s else s.refuse .malformed).state) ?_ (deliver_keeps _ _ _ _ _)
  split
  · exact h
  · exact .refl s

theorem claim_keeps {s t : State} {i : Instr} (h : s.claim i = some t) : Keeps s t := by
  unfold State.claim at h
  split at h
  · split at h
    · next j rest hq =>
      split at h
      · cases h
        refine mapLane_keeps s _ fun b => ⟨?_, b.outbound, b.notices, b.holder, b.held, b.assembly⟩
        have fits := b.intake
        rw [hq, List.length_cons] at fits
        show rest.length ≤ 2
        omega
      · cases h
    · split at h
      · cases h; exact receive_keeps s i
      · cases h
  · cases h

/-- A management command keeps what its act keeps. -/
theorem command_keeps (s : State) (i : Instr) {act : State → Reply} (h : ∀ t, Keeps t (act t).state) :
    Keeps s (s.command i act) := by
  unfold State.command
  split
  · next t ht => exact (claim_keeps ht).trans (run_keeps i (h t))
  · split
    · exact .refl s
    · unfold State.arrive
      split
      · exact (receive_keeps s i).trans (offer_keeps _ i)
      · exact .refl s

theorem resyncArrives_keeps (s : State) (tag : Byte) : Keeps s (s.resyncArrives tag) := by
  unfold State.resyncArrives
  split
  · exact (receive_keeps s _).trans (mapLane_keeps _ _ (resync_bounded tag))
  · exact .refl s

/-! ## Resets, ports and the Outbound Queue -/

theorem reset_spokes_coherent {t : State} (hs : t.spokes = State.reset.spokes) (hl : t.links = State.reset.links) :
    SpokesCoherent t := by
  intro i
  rw [hs, hl]
  simp [State.reset, SpokeRec.reset, SpokeRec.dark, Link.dropped, SpokeRec.coherent]

theorem reset_channels_ordered {t : State} (hc : t.channels = State.reset.channels) : ChannelsOrdered t := by
  intro c
  rw [hc]
  simp [State.reset, Channel.reset]

theorem engine_reset_coherent : Engine.reset.coherent := by
  refine ⟨?_, fun _ => rfl, nofun, fun h => absurd rfl h⟩
  show ((List.finRange 32).map id).Nodup
  rw [List.map_id]
  exact List.nodup_finRange 32

/-- A reset that keeps the store lock. -/
theorem Keeps.of_reset {s t : State} (lane : t.lane.Bounded) (spokes : t.spokes = State.reset.spokes)
    (links : t.links = State.reset.links) (engine : t.engine = .reset) (pointer : t.pointer = none)
    (staging : t.staging = ⟨none, none⟩) (channels : t.channels = State.reset.channels)
    (store : t.store.locked = s.store.locked) : Keeps s t where
  lane _ := lane
  spokes := ⟨fun _ => reset_spokes_coherent spokes links⟩
  bound _ k hk := by rw [engine] at hk; cases hk
  pointer _ := by unfold PointerStaged; rw [pointer, staging]; rfl
  channels _ := reset_channels_ordered channels
  engine _ := by rw [engine]; exact engine_reset_coherent
  locked b := by rw [store]; exact b

theorem powerOn_keeps (s : State) (strap : Fin 8) : Keeps s (s.powerOn strap) :=
  .of_reset (lane_reset_bounded rfl rfl rfl rfl rfl) rfl rfl rfl rfl rfl rfl rfl

theorem hubReset_keeps (s : State) : Keeps s s.hubReset :=
  .of_reset (lane_reset_bounded rfl rfl rfl rfl rfl) rfl rfl rfl rfl rfl rfl rfl

theorem portLock_keeps (s : State) (p : PortId) : Keeps s (s.portLock p) :=
  .of_eq rfl (.of_eq rfl rfl) rfl rfl rfl rfl rfl rfl rfl

theorem handBackAll_keeps (s : State) : Keeps s s.handBackAll :=
  Keeps.of_channels s _ s.tracking fun c h => by rw [tabulate_get]; exact handBack_ordered _ h

theorem mgmtLoss_keeps (s : State) : Keeps s s.mgmtLoss := by
  have down (u : State) : Keeps u { u with
      reference := .free, markerSkipped := false, lane := u.lane.portDown, due := { u.due with abandon := false } } :=
    ⟨fun b => ⟨b.intake, Nat.zero_le _, Nat.zero_le _, rfl, rfl, rfl⟩, .of_eq rfl rfl, id, id, id, id, id⟩
  unfold State.mgmtLoss
  refine Keeps.trans ((handBackAll_keeps s).trans (down _)) ?_
  dsimp only
  split
  · exact hubReset_keeps _
  · exact .refl _

theorem feedsRaised_keeps (d : Detail) (which : FeedId → Bool) (s : State) : Keeps s (feedsRaised d which s) :=
  keeps_foldl (fun (u : State) (f : FeedId) => u.raise 0 (some f.val) d) (fun u f => raise_keeps u 0 (some f.val) d) _ s

theorem portLoss_keeps (s : State) (p : PortId) : Keeps s (s.portLoss p) := by
  have down (u : State) (v : Vector Bool 6) : Keeps u { u with ports := v } :=
    .of_eq rfl (.of_eq rfl rfl) rfl rfl rfl rfl rfl rfl rfl
  unfold State.portLoss
  split
  · rw [raiseSilent_feeds]
    refine ((feedsRaised_keeps .silentPort (s.activeOf p) s).trans (down _ (s.ports.set p false))).trans ?_
    dsimp only
    split
    · exact mgmtLoss_keeps _
    · exact .refl _
  · exact .refl s

theorem leave_keeps (s : State) : Keeps s s.leave := by
  unfold State.leave
  refine (mapLane_keeps s _ leave_bounded).trans ?_
  dsimp only
  split
  · exact hubReset_keeps _
  · exact .refl _

theorem noticeMessages_length (c : ChannelId) (l : List SourceEntry) : (noticeMessages c l).length = partsOf l := by
  simp [noticeMessages]

theorem present_keeps (s : State) : Keeps s s.present := by
  unfold State.present
  split
  · next c _ =>
    split
    · next h =>
      simp only [State.mayPresent, Bool.and_eq_true, decide_eq_true_eq] at h
      obtain ⟨⟨-, room⟩, -⟩ := h
      unfold Lane.free at room
      have queued : Keeps s (s.mapLane fun l =>
          { l with outbound := l.outbound ++ noticeMessages c s.channels[c].list, turn := .capture }) :=
        mapLane_keeps s _ fun b => by
          obtain ⟨fits, few⟩ := notices_fit (q := s.lane.outbound) (l := noticeMessages c s.channels[c].list)
            (by rw [noticeMessages_length]; have := b.outbound; omega)
          exact ⟨b.intake, fits, few, b.holder, b.held, b.assembly⟩
      refine queued.trans (Keeps.of_channels _ _ s.tracking fun d h => ?_)
      rw [update_get]
      split
      · next e => subst e; exact presented_ordered h
      · exact h
    · exact .refl s
  · exact .refl s

theorem enqueueCapture_keeps (s : State) (waits : Bool) : Keeps s (s.enqueueCapture waits) := by
  unfold State.enqueueCapture
  split
  · exact .refl s
  · next r _ =>
    split
    · next h =>
      simp only [Bool.and_eq_true, decide_eq_true_eq] at h
      obtain ⟨⟨-, room⟩, -⟩ := h
      unfold Lane.free at room
      refine (mapLane_keeps s (fun l => { l with outbound := l.outbound ++ [.capture r s.capture.missed], turn := .alarm })
        fun b => ?_).trans (.of_moved (mapCapture_moved _ fun u => { u with buffer := none, missed := 0 }) (.of_eq rfl rfl))
      obtain ⟨fits, few⟩ := notices_fit (q := s.lane.outbound) (l := [.capture r s.capture.missed])
        (by have := b.outbound; simp; omega)
      exact ⟨b.intake, fits, few, b.holder, b.held, b.assembly⟩
    · exact .refl s

/-! ## The frame boundary and samples -/

theorem engine_boundary_moves (e : Engine) : EngineMoves e e.boundary := by
  unfold Engine.boundary
  split
  · exact .refl e
  · refine ⟨rfl, fun _ h => h, fun ⟨order, idle, halting, params⟩ => ⟨order, fun h => ?_, fun h => ?_, params⟩⟩
    · show Option.map _ e.current = none
      rw [idle h]
      rfl
    · have hand := halting h
      unfold Engine.stepInHand at hand ⊢
      cases hc : e.current with
      | none => rw [hc] at hand; cases hand
      | some c => rw [hc] at hand; exact hand

theorem advance_keeps (s : State) : Keeps s s.advance where
  lane b := ⟨b.intake, b.outbound, b.notices, b.holder, b.held, b.assembly⟩
  spokes := advance_keepsSpokes s
  bound b k hk := b k ((engine_boundary_moves s.engine).holds k hk)
  pointer := id
  channels := id
  engine := (engine_boundary_moves s.engine).coherent
  locked := id

theorem openBoundary_keeps (s : State) : Keeps s s.openBoundary := by
  unfold State.openBoundary
  rw [raiseClips_feeds]
  have evaluated (u : State) : Keeps u u.evaluateGroups :=
    .of_eq rfl (.of_eq rfl rfl) rfl rfl rfl rfl rfl rfl rfl
  exact ((advance_keeps s).trans (evaluated _)).trans (feedsRaised_keeps _ _ _)

theorem closeBoundary_keeps (s : State) : Keeps s s.closeBoundary :=
  .of_moved (closeBoundary_moved s) (closeBoundary_keepsSpokes s)

theorem boundary_keeps (s : State) (before : List Turn) : Keeps s (s.boundary before) :=
  (((closeBoundary_keeps s).trans (openBoundary_keeps _)).trans
    (.of_moved (takeTurns_moved _ before) (takeTurns_keepsSpokes _ before))).trans
    (.of_moved (evaluateRest_moved _) (evaluateRest_keepsSpokes _))

theorem samplePeriod_keeps (s : State) (p : SamplePeriod) : Keeps s (s.samplePeriod p) :=
  .of_eq rfl (samplePeriod_keepsSpokes s p) rfl rfl rfl rfl rfl rfl rfl

theorem takeTurn_keeps (s : State) (t : Turn) : Keeps s (s.takeTurn t) :=
  .of_moved (takeTurn_moved s t) (takeTurn_keepsSpokes s t)

end Sys2Proof.Machine
end

section
/-! What every command keeps, and with it every step: the invariants of the hub settled (O6 to O12). -/

namespace Sys2Proof.Machine

/-! ## Changes of one block -/

/-- A slot replaced: one bound to a bank stays READY. -/
theorem setSlot_keeps (s : State) (k : SlotId) (v : PlanSlot)
    (h : s.engine.holds k = true → s.slots[k].state = .ready → v.state = .ready) : Keeps s (s.setSlot k v) where
  lane := id
  spokes := .of_eq rfl rfl
  bound b j hj := by
    rw [setSlot_slots, set_get]
    split
    · next e => rw [e] at hj; exact h hj (b k hj)
    · exact b j hj
  pointer := id
  channels := id
  engine := id
  locked := id

theorem Keeps.of_pointer (s : State) (p : Option Pointer) (st : Staging)
    (h : PointerStaged s → stagedFor p st = true) : Keeps s { s with pointer := p, staging := st } :=
  ⟨id, .of_eq rfl rfl, id, h, id, id, id⟩

theorem mapStore_keeps (s : State) (f : Store → Store) (h : s.store.locked = true → (f s.store).locked = true) :
    Keeps s (s.mapStore f) :=
  ⟨id, .of_eq rfl rfl, id, id, id, id, h⟩

theorem clearPointerAt_keeps (s : State) (k : SlotId) : Keeps s (s.clearPointerAt k) := by
  by_cases h : s.pointer.map (·.slot) = some k
  case pos => rw [clearPointerAt_of_named h]; exact Keeps.of_pointer s none _ fun _ => rfl
  case neg => rw [clearPointerAt_of_not_named h]; exact .refl s

/-! ## Feeds and spokes -/

theorem feedSet_keeps (f st o b l : Byte) (s : State) : Keeps s (s.feedSet f st o b l).state := by
  unfold State.feedSet
  repeat' split
  case h_2.isFalse.isFalse => exact .of_eq rfl (.of_eq rfl rfl) rfl rfl rfl rfl rfl rfl rfl
  all_goals exact .refl s

theorem feedRead_keeps (f : Byte) (s : State) : Keeps s (s.feedRead f).state := by
  unfold State.feedRead
  split <;> exact .refl s

theorem moveSpoke_keepsSpokes (s : State) (i : SpokeId) (f : SpokeRec → SpokeRec)
    (h : ∀ b, s.spokes[i].coherent b = true → { f s.spokes[i] with settle := 0 : SpokeRec }.coherent b = true) :
    KeepsSpokes s (s.moveSpoke i f) := by
  have moved : KeepsSpokes s (s.mapSpoke i fun r => { f r with settle := 0 }) := mapSpoke_keepsSpokes s i _ h
  exact moved.trans (.of_eq (moveSpoke_spokes s i f) (moveSpoke_links s i f))

theorem spokeIsolate_keeps (b : Byte) (s : State) : Keeps s (s.spokeIsolate b).state := by
  unfold State.spokeIsolate
  split
  · exact .refl s
  · next i _ =>
    split
    · exact .refl s
    · exact .of_moved (moveSpoke_moved s i _) (moveSpoke_keepsSpokes s i _ fun _ h => coherent_isolated .admin h)

/-- A hold cleared on a spoke in DARK or TRAINING, whose state does not depend on it. -/
theorem coherent_released {b : Bool} {r : SpokeRec} (hold : Hold) (h : r.coherent b = true) (hl : r.state ≠ .live)
    (hq : r.state ≠ .quiet) (hi : r.state ≠ .isolated) : { r with hold := hold : SpokeRec }.coherent b = true := by
  cases e : r.state <;> simp_all [SpokeRec.coherent]

theorem spokeRestore_keeps (b : Byte) (s : State) : Keeps s (s.spokeRestore b).state := by
  unfold State.spokeRestore
  split
  · exact .refl s
  · next i _ =>
    dsimp only
    split
    · exact .refl s
    · next held =>
      have hold : s.spokes[i].hold.isolates = true := by simpa using held
      have freed := mapSpoke_only s i fun r => { r with hold := .none }
      have cleared := mapSpoke_moved s i fun r => { r with hold := .none }
      split
      · next hs =>
        have lit : s.spokes[i].state ≠ .dark := by rw [hs]; decide
        have unlive : s.spokes[i].state ≠ .live := by rw [hs]; decide
        split
        · next known =>
          refine .of_moved (cleared.trans (enterLive_moved _ i)) ?_
          show KeepsSpokes s (State.enterLive i _)
          rw [enterLive_eq]
          refine ((freed.trans (mapSpoke_only _ i _)).keeps fun hc => ?_).trans (classCheck_keepsSpokes _ i)
          rw [mapSpoke_here, mapSpoke_here]
          exact coherent_live _ known (coherent_locked (hc i) lit)
        · next unknown =>
          refine .of_moved (cleared.trans (enterTraining_moved _ i)) ?_
          show KeepsSpokes s (State.enterTraining i _)
          refine (freed.trans (enterTraining_only _ i)).keeps fun hc => ?_
          have settled : s.spokes[i].settle = 0 := coherent_unsettled (hc i) unlive
          have none : s.spokes[i].knownClass = none := by simpa using unknown
          rw [enterTraining_here, enterTraining_locked, mapSpoke_here]
          exact coherent_training settled none (coherent_locked (hc i) lit)
      · next hs =>
        refine .of_moved cleared (freed.keeps fun hc => ?_)
        show ((s.mapSpoke i _).spokes[i]).coherent s.links[i].locked = true
        rw [mapSpoke_here]
        have holdless (h : s.spokes[i].state = .live ∨ s.spokes[i].state = .quiet) : False := by
          rw [coherent_not_isolated_hold (hc i) h] at hold; cases hold
        exact coherent_released _ (hc i) (fun h => holdless (.inl h)) (fun h => holdless (.inr h)) hs

theorem spokeQuiet_keeps (b : Byte) (s : State) : Keeps s (s.spokeQuiet b).state := by
  unfold State.spokeQuiet
  split
  · exact .refl s
  · next i _ =>
    dsimp only
    split
    · exact .refl s
    · next held =>
      split
      · next hs =>
        refine .of_moved (moveSpoke_moved s i _) (moveSpoke_keepsSpokes s i _ fun b h => ?_)
        generalize s.spokes[i] = r at hs h
        simp_all [SpokeRec.coherent]
      · next hs =>
        refine .of_moved (mapSpoke_moved s i _) (mapSpoke_keepsSpokes s i _ fun b h => ?_)
        generalize s.spokes[i] = r at held hs h
        cases e : r.state <;> simp_all [SpokeRec.coherent]

theorem spokeWake_keeps (b : Byte) (s : State) : Keeps s (s.spokeWake b).state := by
  unfold State.spokeWake
  split
  · exact .refl s
  · next i _ =>
    dsimp only
    split
    · exact .refl s
    · split
      · next hs =>
        refine .of_moved (enterLive_moved s i) (enterLive_keepsSpokes s i fun hc => ?_)
        have here := hc i
        generalize s.spokes[i] = r at hs here
        simp_all [SpokeRec.coherent]
      · split
        · next hs =>
          refine .of_moved (mapSpoke_moved s i _) (mapSpoke_keepsSpokes s i _ fun b h => ?_)
          generalize s.spokes[i] = r at hs h
          refine coherent_released _ h ?_ ?_ ?_ <;> rcases hs with e | e <;> rw [e] <;> decide
        · exact .refl s

theorem spokeRetrain_keeps (b : Byte) (s : State) : Keeps s (s.spokeRetrain b).state := by
  unfold State.spokeRetrain
  split
  · exact .refl s
  · next i _ =>
    exact .of_moved ((enterDark_moved s i).trans (mapLink_moved _ i _)) (enterDark_dropped_keepsSpokes s i)

theorem spokeRearm_keeps (b : Byte) (s : State) : Keeps s (s.spokeRearm b).state := by
  unfold State.spokeRearm
  split
  · exact .refl s
  · next i _ =>
    split
    · exact .of_moved (mapSpoke_moved s i _) (mapSpoke_congr_keepsSpokes s i _ rfl rfl rfl rfl)
    · exact .refl s

theorem spokeRead_keeps (b : Byte) (s : State) : Keeps s (s.spokeRead b).state := by
  unfold State.spokeRead
  split <;> exact .refl s

theorem pollSet_keeps (p : Half) (s : State) : Keeps s (s.pollSet p).state := by
  unfold State.pollSet
  split
  · exact .refl s
  · next n _ =>
    have lowered : KeepsSpokes s { s with
        pollPeriod := n, spokes := mapTable (fun r : SpokeRec => { r with nextPoll := min n r.nextPoll }) s.spokes } :=
      ⟨fun h i => by rw [mapTable_get]; exact (coherent_congr rfl rfl rfl rfl).trans (h i)⟩
    exact .of_eq rfl lowered rfl rfl rfl rfl rfl rfl rfl

/-! ## Plans -/

theorem planOpen_keeps (b : Byte) (s : State) : Keeps s (s.planOpen b).state := by
  unfold State.planOpen
  repeat' split
  case h_2.isFalse free =>
    exact (setSlot_keeps s _ _ fun held => absurd held free).trans (clearPointerAt_keeps _ _)
  all_goals exact .refl s

theorem planEdit_keeps (b : Byte) (s : State) : Keeps s (s.planEdit b).state := by
  unfold State.planEdit
  split
  · exact .refl s
  · next k _ =>
    have edited (v : PlanSlot) (free : ¬s.engine.holds k = true) : Keeps s ((s.setSlot k v).clearPointerAt k) :=
      (setSlot_keeps s k v fun held => absurd held free).trans (clearPointerAt_keeps _ k)
    split
    case h_1 | h_2 => exact .refl s
    all_goals
      split
      · exact .refl s
      · next free => exact edited _ free

theorem planDrop_keeps (b : Byte) (s : State) : Keeps s (s.planDrop b).state := by
  unfold State.planDrop
  repeat' split
  case h_2.isFalse free =>
    exact (setSlot_keeps s _ _ fun held => absurd held free).trans (clearPointerAt_keeps _ _)
  all_goals exact .refl s

/-- A LOADING slot is not bound, so that it can take any state. -/
theorem setSlot_loading_keeps (s : State) (k : SlotId) (v : PlanSlot) (h : s.slots[k].state = .loading) :
    Keeps s (s.setSlot k v) :=
  setSlot_keeps s k v fun _ ready => by rw [h] at ready; cases ready

theorem planCell_keeps (b : Byte) (es : List CellEntry) (s : State) : Keeps s (s.planCell b es).state := by
  unfold State.planCell
  repeat' split
  case h_1.isTrue loading => exact setSlot_loading_keeps s _ _ loading
  all_goals exact .refl s

theorem planExpect_keeps (b : Byte) (ps : List ExpectPair) (s : State) : Keeps s (s.planExpect b ps).state := by
  unfold State.planExpect
  repeat' split
  case h_1.isTrue loading => exact setSlot_loading_keeps s _ _ loading
  all_goals exact .refl s

theorem planClose_keeps (b : Byte) (s : State) : Keeps s (s.planClose b).state := by
  unfold State.planClose
  split
  · exact .refl s
  · split
    · next loading => split <;> exact setSlot_loading_keeps s _ _ loading
    · exact .refl s

theorem planRead_keeps (a b : Byte) (s : State) : Keeps s (s.planRead a b).state := by
  unfold State.planRead
  split <;> exact .refl s

theorem trimPoint_keeps (a b c : Byte) (s : State) : Keeps s (s.trimPoint a b c).state := by
  unfold State.trimPoint
  repeat' split
  case h_1.isTrue => exact Keeps.of_pointer s _ _ fun _ => rfl
  all_goals exact .refl s

/-- A commit changes at most the plan of a slot. -/
theorem commit_keeps (s : State) (p : Pointer) (v : Byte) : Keeps s (s.commit p v).2 := by
  unfold State.commit
  dsimp only
  split
  · split
    · exact setSlot_keeps s p.slot _ fun _ ready => ready
    · exact .refl s
    · exact .refl s
  · exact .refl s

theorem advance_part (p : Pointer) : p.advance.part = p.part.next := by
  unfold Pointer.advance
  split <;> next e => rw [e]; rfl

/-- One value that fits the part it lands in. -/
theorem land_keeps {l : Landing} {p : Pointer} {v : Byte} (hp : l.state.pointer = some p)
    (fits : p.part ≠ .delay → v.toNat < 64) : Keeps l.state (l.land v).state := by
  have code (h : p.part ≠ .delay) : (below 64 v).isSome = true := by unfold below; rw [dif_pos (fits h)]; rfl
  have part (q : Part) (e : p.part = q) : (some p.advance).map Pointer.part = some q.next := by
    rw [Option.map_some, advance_part, e]
  unfold Landing.land
  rw [hp]
  dsimp only
  split
  · next e =>
    refine Keeps.of_pointer _ _ _ fun _ => ?_
    unfold stagedFor
    rw [part _ e]
    simpa [Part.next] using code (by rw [e]; decide)
  · next e =>
    refine Keeps.of_pointer _ _ _ fun staged => ?_
    unfold PointerStaged stagedFor at staged
    rw [hp, Option.map_some, e] at staged
    unfold stagedFor
    rw [part _ e]
    simp only [Bool.and_eq_true] at staged
    simpa [Part.next, staged.1] using code (by rw [e]; decide)
  · next e =>
    refine (commit_keeps l.state p v).trans (Keeps.of_pointer _ _ _ fun _ => ?_)
    unfold stagedFor
    rw [part _ e]
    rfl

theorem land_pointer {l : Landing} {p : Pointer} (v : Byte) (hp : l.state.pointer = some p) :
    (l.land v).state.pointer = some p.advance := by
  unfold Landing.land
  rw [hp]
  dsimp only
  split <;> rfl

theorem trims_keep (vs : List Byte) (l : Landing) (p : Pointer) (hp : l.state.pointer = some p)
    (fits : trimsFit p.part vs = true) : Keeps l.state (vs.foldl Landing.land l).state := by
  induction vs generalizing l p with
  | nil => exact .refl _
  | cons v vs ih =>
    rw [trimsFit, Bool.and_eq_true] at fits
    obtain ⟨first, rest⟩ := fits
    refine (land_keeps hp fun h => ?_).trans (ih _ p.advance (land_pointer v hp) (by rw [advance_part]; exact rest))
    simpa [h] using first

theorem trim_keeps (vs : List Byte) (s : State) : Keeps s (s.trim vs).state := by
  unfold State.trim
  split
  · exact .refl s
  · next p hp =>
    split
    · exact .refl s
    · split
      · exact .refl s
      · next fits => exact trims_keep vs ⟨0, 0, 0, none, s⟩ p hp (by simpa using fits)

/-! ## Banks and cutovers -/

theorem bind_holds (e : Engine) (b : Bool) (v : Option SlotId) (k : SlotId) (h : (e.bind b v).holds k = true) :
    e.holds k = true ∨ v = some k := by
  cases b <;> simp [Engine.bind, Engine.holds] at h ⊢ <;> tauto

theorem bind_coherent {e : Engine} (b : Bool) (v : Option SlotId) (h : e.coherent) : (e.bind b v).coherent := by
  cases b <;> exact h

theorem settleFollower_keeps (b : Bool) (s : State) (i : SpokeId) : Keeps s (State.settleFollower b i s) := by
  unfold State.settleFollower
  split
  · exact .of_moved ((settleStart_moved s i _).trans (classCheck_moved _ i))
      ((settleStart_keepsSpokes s i _).trans (classCheck_keepsSpokes _ i))
  · exact .refl s

theorem settleFollowers_keep (b : Bool) (s : State) : Keeps s (eachSpoke (State.settleFollower b) s) := by
  unfold eachSpoke
  exact keeps_foldl (fun t i => State.settleFollower b i t) (settleFollower_keeps b) allSpokes s

theorem bankBind_keeps (b k : Byte) (s : State) : Keeps s (s.bankBind b k).state := by
  unfold State.bankBind
  split
  · next bank slot _ _ =>
    split
    · exact .refl s
    · split
      · exact .refl s
      · next ready =>
        split
        · exact .refl s
        · split
          · exact .refl s
          · have bound : Keeps s (s.mapEngine (·.bind bank (some slot))) := by
              refine Keeps.of_engine s _ (fun j hj => ?_) (bind_coherent bank _)
              rcases bind_holds _ _ _ j hj with held | new
              · exact .inl held
              · cases new; exact .inr (not_not.mp ready)
            have settled := bound.trans (settleFollowers_keep bank _)
            generalize eachSpoke (State.settleFollower bank) (s.mapEngine (·.bind bank (some slot))) = t at settled ⊢
            exact settled
  · exact .refl s

theorem bankRelease_keeps (b : Byte) (s : State) : Keeps s (s.bankRelease b).state := by
  unfold State.bankRelease
  repeat' split
  case h_2.isFalse.isFalse =>
    exact Keeps.of_engine s _ (fun k hk => .inl ((bind_holds _ _ _ k hk).resolve_right (by simp))) (bind_coherent _ _)
  all_goals exact .refl s

theorem orderOf_nodup {order : List Byte} {o : Vector SpokeId 32} (h : orderOf order = some o) : o.toList.Nodup := by
  unfold orderOf at h
  split at h
  · split at h
    · next l _ hl => cases h; exact hl.2
    · cases h
  · cases h

theorem sweepOrder_keeps (order : List Byte) (s : State) : Keeps s (s.sweepOrder order).state := by
  unfold State.sweepOrder
  split
  · exact .refl s
  · next o ho =>
    split
    · exact .refl s
    · split
      · exact .refl s
      · exact Keeps.of_engine s (fun e => { e with order := o }) (fun _ hk => .inl hk)
          fun ⟨_, idle, halting, params⟩ => ⟨orderOf_nodup ho, idle, halting, params⟩

theorem acceptCutover_moved (s : State) (p : Params) : Moved s (s.acceptCutover p) :=
  ⟨rfl, ⟨rfl, fun _ h => h, fun ⟨order, idle, halting, _⟩ => ⟨order, idle, halting, fun _ => rfl⟩⟩, fun _ h => h, rfl,
    .inl rfl⟩

theorem cutover_keeps (t i n f : Byte) (s : State) : Keeps s (s.cutover t i n f).state := by
  unfold State.cutover
  split
  · exact .refl s
  · next p _ =>
    split
    · exact .refl s
    · split
      · exact .of_moved (acceptCutover_moved s p) (.of_eq rfl rfl)
      · split
        · exact .of_moved (startCutover_moved s p) (.of_eq rfl rfl)
        · exact .refl s

theorem endCutover_keeps (s : State) (halted : Bool) : Keeps s (s.endCutover halted) :=
  .of_moved (endCutover_moved s halted) (by rw [endCutover_frame]; exact .of_eq rfl rfl)

theorem halt_keeps (s : State) : Keeps s s.halt.state := by
  unfold State.halt
  split
  · exact .refl s
  · exact .refl s
  · next hs =>
    dsimp only
    split
    · next hand =>
      refine Keeps.of_engine s (fun e => { e with state := .halting }) (fun _ hk => .inl hk)
        fun ⟨order, _, _, params⟩ => ⟨order, nofun, fun _ => hand, fun _ => params (by rw [hs]; decide)⟩
    · exact endCutover_keeps s true

theorem foldBanks_keeps (s : State) : Keeps s s.foldBanks.state := by
  unfold State.foldBanks
  split
  · exact .refl s
  · next idle =>
    split
    · exact .refl s
    · have moves := fold_moves s.engine (not_not.mp idle)
      exact Keeps.of_engine s Engine.fold (fun k hk => .inl (moves.holds k hk)) moves.coherent

/-! ## Watch, capture, qualification -/

theorem watchSet_keeps (g : Byte) (m : BitVec 32) (h l : BitVec 24) (d p t i n : Byte) (s : State) :
    Keeps s (s.watchSet g m h l d p t i n).state := by
  unfold State.watchSet
  split
  · exact .of_moved ((clearGroupTurn_moved s _).trans (mapGroup_moved _ _ _)) (.of_eq rfl rfl)
  · exact .refl s

theorem watchOff_keeps (g : Byte) (s : State) : Keeps s (s.watchOff g).state := by
  unfold State.watchOff
  split
  · exact .refl s
  · exact .of_moved ((clearGroupTurn_moved s _).trans (mapGroup_moved _ _ _)) (.of_eq rfl rfl)

theorem meterRead_keeps (l : List Byte) (s : State) : Keeps s (s.meterRead l).state := by
  unfold State.meterRead
  split <;> exact .refl s

theorem watchRead_keeps (g : Byte) (s : State) : Keeps s (s.watchRead g).state := by
  unfold State.watchRead
  split <;> exact .refl s

theorem mapCapture_keeps (s : State) (f : Capture → Capture) : Keeps s (s.mapCapture f) :=
  .of_moved (mapCapture_moved s f) (.of_eq rfl rfl)

theorem captureReply_keeps (s : State) (f : Capture → Capture) : Keeps s (s.mapCapture f).captureReply.state :=
  mapCapture_keeps s f

theorem captureRequest_keeps (a b c d : Byte) (n : Half) (s : State) : Keeps s (s.captureRequest a b c d n).state := by
  unfold State.captureRequest
  split
  · split
    · exact .refl s
    · split
      · exact captureReply_keeps s _
      · split
        · exact .refl s
        · exact captureReply_keeps s _
  · exact .refl s

theorem captureStop_keeps (s : State) : Keeps s s.captureStop.state :=
  .of_eq rfl (.of_eq rfl rfl) rfl rfl rfl rfl rfl rfl rfl

theorem qualifySet_keeps (k m n w u a : Byte) (l : Half) (s : State) : Keeps s (s.qualifySet k m n w u a l).state := by
  unfold State.qualifySet
  split
  · exact .refl s
  · exact .of_eq rfl (.of_eq rfl rfl) rfl rfl rfl rfl rfl rfl rfl

theorem qualifyRead_keeps (k i : Byte) (s : State) : Keeps s (s.qualifyRead k i).state := by
  unfold State.qualifyRead
  split <;> exact .refl s

/-! ## Alarms, the store, the hub -/

theorem alarmEnable_keeps (on off : Half) (s : State) : Keeps s (s.alarmEnable on off).state := by
  unfold State.alarmEnable
  split
  · exact .refl s
  · exact Keeps.of_channels s _ s.tracking fun c h => by rw [tabulate_get]; exact setEnabled_ordered _ _ h

theorem alarmMask_keeps (m u : Half) (s : State) : Keeps s (s.alarmMask m u).state := by
  unfold State.alarmMask
  split
  · exact .refl s
  · exact Keeps.of_channels s _ s.tracking fun c h => by rw [tabulate_get]; exact setMasked_ordered _ _ h

theorem alarmTrack_keeps (b : Byte) (s : State) : Keeps s (s.alarmTrack b).state := by
  unfold State.alarmTrack
  split
  · exact .refl s
  · exact Keeps.of_channels s s.channels true fun c h => ⟨h.1, h.2.1, nofun⟩
  · exact Keeps.of_channels s _ false fun c h => by rw [mapTable_get]; exact serviceEnded_ordered h

theorem alarmDone_keeps (b : Byte) (s : State) : Keeps s (s.alarmDone b).state := by
  unfold State.alarmDone
  split
  · exact .refl s
  · split
    · refine Keeps.of_channels s _ s.tracking fun c h => ?_
      rw [update_get]
      split
      · next e => subst e; exact serviceEnded_ordered h
      · exact h
    · exact .refl s

theorem alarmRead_keeps (c i : Byte) (s : State) : Keeps s (s.alarmRead c i).state := by
  unfold State.alarmRead
  split <;> exact .refl s

theorem storeRead_keeps (r : Byte) (s : State) : Keeps s (s.storeRead r).state := by
  unfold State.storeRead
  split <;> exact .refl s

theorem storeErase_keeps (p : Byte) (s : State) : Keeps s (s.storeErase p).state := by
  unfold State.storeErase
  repeat' split
  case h_2.isFalse.isFalse.isFalse => exact mapStore_keeps s _ id
  all_goals exact .refl s

theorem storeWrite_keeps (r a b c d : Byte) (s : State) : Keeps s (s.storeWrite r a b c d).state := by
  unfold State.storeWrite
  repeat' split
  case h_2.isFalse.isFalse.isFalse.isFalse => exact mapStore_keeps s _ id
  all_goals exact .refl s

theorem storeLock_keeps (s : State) : Keeps s s.storeLock.state := by
  unfold State.storeLock
  repeat' split
  case isFalse.isFalse =>
    exact mapStore_keeps s (fun st => { st with locked := true, engine := .locking, left := 4 }) fun _ => rfl
  all_goals exact .refl s

theorem armReset_keeps (s : State) : Keeps s s.armReset.state :=
  mapLane_keeps s (fun l => { l with resetArmed := true }) fun b =>
    ⟨b.intake, b.outbound, b.notices, b.holder, b.held, b.assembly⟩

theorem hubResetCommand_keeps (tag : Byte) (s : State) : Keeps s (s.hubResetCommand tag) := by
  unfold State.hubResetCommand
  refine (command_keeps s (.hubReset tag) armReset_keeps).trans ?_
  dsimp only
  split
  · exact hubReset_keeps _
  · exact .refl _

end Sys2Proof.Machine
end

section
/-! SUPPORT. What every step keeps: each instruction answers with a next state in good order, and so does an empty
queue. -/

namespace Sys2Proof.Machine

/-! ## The rows that are no command -/

theorem crowdTurn_keeps (s : State) (g : GroupId) : Keeps s (s.crowdTurn g) := by
  refine .of_moved (crowdTurn_moved s g) ?_
  unfold State.crowdTurn
  split
  · obtain ⟨r, c, e, n, d, h⟩ := crowd_frame (s.clearGroupTurn g) g
    rw [h]
    exact .of_eq rfl rfl
  · exact .refl s

theorem calmTurn_keeps (s : State) (g : GroupId) : Keeps s (s.calmTurn g) := by
  refine .of_moved (calmTurn_moved s g) ?_
  unfold State.calmTurn
  split
  · exact .of_eq rfl rfl
  · exact .refl s

theorem reportByte_keeps (s : State) (i : SpokeId) (b : Byte) : Keeps s (s.reportByte i b) :=
  .of_moved (reportByte_moved s i b) (reportByte_keepsSpokes s i b)

theorem groupDamaged_keeps (s : State) (i : SpokeId) (n : Nat) : Keeps s (s.groupDamaged i n) := by
  refine .of_moved (groupDamaged_moved s i n) ?_
  unfold State.groupDamaged
  split
  · exact (mapLink_keepsSpokes s i (fun l => { l with damaged := l.damaged + n }) rfl).trans (frameErrors_keepsSpokes _ i)
  · exact .refl s

theorem send_locked (l : Link) : l.send.locked = l.locked := by
  unfold Link.send
  repeat' split
  all_goals rfl

theorem nodeRequestSend_keeps (s : State) (i : SpokeId) : Keeps s (s.mapLink i Link.send) :=
  .of_moved (mapLink_moved s i _) (mapLink_keepsSpokes s i _ (send_locked _))

theorem evaluateTurn_keeps (s : State) (i : SpokeId) : Keeps s (s.evaluateTurn i) :=
  .of_moved (evaluateTurn_moved s i) (evaluateTurn_keepsSpokes s i)

theorem trainTurn_keeps (s : State) (i : SpokeId) : Keeps s (s.trainTurn i) :=
  .of_moved (trainTurn_moved s i) (trainTurn_keepsSpokes s i)

/-- A row that acts on a condition and else leaves the state as it is. -/
theorem keeps_ite {s t : State} {p : Prop} [Decidable p] (h : Keeps s t) : Keeps s (if p then t else s) := by
  split
  · exact h
  · exact .refl s

theorem limitTurn_keeps (s : State) (i : SpokeId) : Keeps s (s.limitTurn i) := by
  unfold State.limitTurn
  split
  · exact .refl s
  · exact trainTurn_keeps s i

theorem relock_keeps (s : State) (micros : Nat) (before : List Turn) : Keeps s (s.relock micros before) := by
  unfold State.relock
  split
  · split
    · exact Keeps.trans (t := { s with reference := .locked, markerSkipped := false })
        (.of_eq rfl (.of_eq rfl rfl) rfl rfl rfl rfl rfl rfl rfl) (boundary_keeps _ before)
    · exact .of_eq rfl (.of_eq rfl rfl) rfl rfl rfl rfl rfl rfl rfl
  · exact .refl s

theorem eraseEnd_keeps (s : State) (b : Bool) : Keeps s (s.eraseEnd b) := by
  refine .of_moved (eraseEnd_moved s b) ?_
  unfold State.eraseEnd
  repeat' split
  all_goals exact .of_eq rfl rfl

theorem writeEnd_keeps (s : State) (b : Bool) : Keeps s (s.writeEnd b) := by
  refine .of_moved (writeEnd_moved s b) ?_
  unfold State.writeEnd
  repeat' split
  all_goals exact .of_eq rfl rfl

theorem readEnd_keeps (s : State) : Keeps s s.readEnd := by
  refine .of_moved (readEnd_moved s) ?_
  unfold State.readEnd
  split
  all_goals exact .of_eq rfl rfl

theorem lockEnd_keeps (s : State) : Keeps s s.lockEnd := by
  refine .of_moved (lockEnd_moved s) ?_
  unfold State.lockEnd
  split
  all_goals exact .of_eq rfl rfl

/-! ## Every instruction, and an empty queue -/

theorem hubStatus_keeps (s : State) : Keeps s s.hubStatus.state := .refl s

/-- Every command and every event answers with a next state, and that state is in good order where the old one is. -/
theorem exec_answers_keeping (i : Instr) (s : State) : ∃ t, exec i s = .next t ∧ Keeps s t := by
  cases i with
  | powerOnReset strap => exact ⟨_, rfl, powerOn_keeps s strap⟩
  | frameBoundary before => exact ⟨_, rfl, keeps_ite (boundary_keeps s before)⟩
  | timebaseRelock micros before => exact ⟨_, rfl, relock_keeps s micros before⟩
  | carrierPortLock port => exact ⟨_, rfl, portLock_keeps s port⟩
  | carrierPortLoss port => exact ⟨_, rfl, portLoss_keeps s port⟩
  | spokeLinkLock i => exact ⟨_, rfl, .of_moved (linkLock_moved s i) (linkLock_keepsSpokes s i)⟩
  | spokeLinkLoss i => exact ⟨_, rfl, .of_moved (linkLoss_moved s i) (linkLoss_keepsSpokes s i)⟩
  | sampleGroupDamaged i n => exact ⟨_, rfl, groupDamaged_keeps s i n⟩
  | nodeRequestSend i => exact ⟨_, rfl, nodeRequestSend_keeps s i⟩
  | reportComplete i bytes =>
    exact ⟨_, rfl, keeps_foldl (fun t b => t.reportByte i b) (fun t b => reportByte_keeps t i b) bytes s⟩
  | reportTake => exact ⟨_, rfl, takeTurn_keeps s .report⟩
  | helloRequestRepeat i => exact ⟨_, rfl, keeps_ite (trainTurn_keeps s i)⟩
  | trainingLimit i => exact ⟨_, rfl, limitTurn_keeps s i⟩
  | settleEnd i => exact ⟨_, rfl, takeTurn_keeps s (.settleEnd i)⟩
  | healthPollDue i => exact ⟨_, rfl, takeTurn_keeps s (.poll i)⟩
  | crowdedEntry g => exact ⟨_, rfl, crowdTurn_keeps s g⟩
  | groupCalm g => exact ⟨_, rfl, calmTurn_keeps s g⟩
  | cutoverStep => exact ⟨_, rfl, takeTurn_keeps s .cutover⟩
  | persistQualify i k => exact ⟨_, rfl, keeps_ite (evaluateTurn_keeps s i)⟩
  | qualifierWindowEnd i k => exact ⟨_, rfl, keeps_ite (evaluateTurn_keeps s i)⟩
  | captureCollectionEnd => exact ⟨_, rfl, takeTurn_keeps s .captureEnd⟩
  | captureCollectionStart => exact ⟨_, rfl, takeTurn_keeps s .captureStart⟩
  | captureNoticeEnqueue => exact ⟨_, rfl, enqueueCapture_keeps s _⟩
  | alarmPresentation => exact ⟨_, rfl, present_keeps s⟩
  | startupReadEnd => exact ⟨_, rfl, readEnd_keeps s⟩
  | storeEraseEnd b => exact ⟨_, rfl, eraseEnd_keeps s b⟩
  | storeWriteEnd b => exact ⟨_, rfl, writeEnd_keeps s b⟩
  | storeLockEnd => exact ⟨_, rfl, lockEnd_keeps s⟩
  | commandComplete bytes =>
    exact ⟨_, rfl, keeps_foldl (fun t b => t.inboundByte b) (fun t b => inboundByte_keeps t b) bytes s⟩
  | assemblyAbandon => exact ⟨_, rfl, abandonTurn_keeps s⟩
  | commandUnknown tag code => exact ⟨_, rfl, command_keeps s _ fun t => .refl t⟩
  | commandMalformed tag code => exact ⟨_, rfl, command_keeps s _ fun t => .refl t⟩
  | commandResponseTaken => exact ⟨_, rfl, keeps_ite (mapLane_keeps s _ takeHeld_bounded)⟩
  | resyncResponseTaken => exact ⟨_, rfl, keeps_ite (mapLane_keeps s _ takeHolder_bounded)⟩
  | messageLeaves => exact ⟨_, rfl, keeps_ite (leave_keeps s)⟩
  | hubResetEffect => exact ⟨_, rfl, keeps_ite (leave_keeps s)⟩
  | feedSet tag f st o b l => exact ⟨_, rfl, command_keeps s _ (feedSet_keeps f st o b l)⟩
  | feedRead tag f => exact ⟨_, rfl, command_keeps s _ (feedRead_keeps f)⟩
  | spokeIsolate tag i => exact ⟨_, rfl, command_keeps s _ (spokeIsolate_keeps i)⟩
  | spokeRestore tag i => exact ⟨_, rfl, command_keeps s _ (spokeRestore_keeps i)⟩
  | spokeQuiet tag i => exact ⟨_, rfl, command_keeps s _ (spokeQuiet_keeps i)⟩
  | spokeWake tag i => exact ⟨_, rfl, command_keeps s _ (spokeWake_keeps i)⟩
  | spokeRetrain tag i => exact ⟨_, rfl, command_keeps s _ (spokeRetrain_keeps i)⟩
  | spokeRearm tag i => exact ⟨_, rfl, command_keeps s _ (spokeRearm_keeps i)⟩
  | spokeRead tag i => exact ⟨_, rfl, command_keeps s _ (spokeRead_keeps i)⟩
  | pollSet tag p => exact ⟨_, rfl, command_keeps s _ (pollSet_keeps p)⟩
  | planOpen tag k => exact ⟨_, rfl, command_keeps s _ (planOpen_keeps k)⟩
  | planEdit tag k => exact ⟨_, rfl, command_keeps s _ (planEdit_keeps k)⟩
  | planCell tag k entries => exact ⟨_, rfl, command_keeps s _ (planCell_keeps k entries)⟩
  | planExpect tag k pairs => exact ⟨_, rfl, command_keeps s _ (planExpect_keeps k pairs)⟩
  | planClose tag k => exact ⟨_, rfl, command_keeps s _ (planClose_keeps k)⟩
  | planDrop tag k => exact ⟨_, rfl, command_keeps s _ (planDrop_keeps k)⟩
  | planRead tag k i => exact ⟨_, rfl, command_keeps s _ (planRead_keeps k i)⟩
  | trimPoint tag k i c => exact ⟨_, rfl, command_keeps s _ (trimPoint_keeps k i c)⟩
  | trim tag vs => exact ⟨_, rfl, command_keeps s _ (trim_keeps vs)⟩
  | bankBind tag b k => exact ⟨_, rfl, command_keeps s _ (bankBind_keeps b k)⟩
  | bankRelease tag b => exact ⟨_, rfl, command_keeps s _ (bankRelease_keeps b)⟩
  | sweepOrder tag order => exact ⟨_, rfl, command_keeps s _ (sweepOrder_keeps order)⟩
  | cutover tag t i n f => exact ⟨_, rfl, command_keeps s _ (cutover_keeps t i n f)⟩
  | halt tag => exact ⟨_, rfl, command_keeps s _ halt_keeps⟩
  | fold tag => exact ⟨_, rfl, command_keeps s _ foldBanks_keeps⟩
  | cutoverRead tag => exact ⟨_, rfl, command_keeps s _ fun t => .refl t⟩
  | watchSet tag g m h l d p t i n => exact ⟨_, rfl, command_keeps s _ (watchSet_keeps g m h l d p t i n)⟩
  | watchOff tag g => exact ⟨_, rfl, command_keeps s _ (watchOff_keeps g)⟩
  | watchRead tag g => exact ⟨_, rfl, command_keeps s _ (watchRead_keeps g)⟩
  | meterRead tag l => exact ⟨_, rfl, command_keeps s _ (meterRead_keeps l)⟩
  | capture tag i c kind mode n => exact ⟨_, rfl, command_keeps s _ (captureRequest_keeps i c kind mode n)⟩
  | captureStop tag => exact ⟨_, rfl, command_keeps s _ captureStop_keeps⟩
  | qualify tag k m n w u a l => exact ⟨_, rfl, command_keeps s _ (qualifySet_keeps k m n w u a l)⟩
  | qualifyRead tag k i => exact ⟨_, rfl, command_keeps s _ (qualifyRead_keeps k i)⟩
  | alarmEnable tag on off => exact ⟨_, rfl, command_keeps s _ (alarmEnable_keeps on off)⟩
  | alarmMask tag m u => exact ⟨_, rfl, command_keeps s _ (alarmMask_keeps m u)⟩
  | alarmTrack tag b => exact ⟨_, rfl, command_keeps s _ (alarmTrack_keeps b)⟩
  | alarmDone tag c => exact ⟨_, rfl, command_keeps s _ (alarmDone_keeps c)⟩
  | alarmRead tag c i => exact ⟨_, rfl, command_keeps s _ (alarmRead_keeps c i)⟩
  | storeRead tag r => exact ⟨_, rfl, command_keeps s _ (storeRead_keeps r)⟩
  | storeErase tag p => exact ⟨_, rfl, command_keeps s _ (storeErase_keeps p)⟩
  | storeWrite tag r a b c d => exact ⟨_, rfl, command_keeps s _ (storeWrite_keeps r a b c d)⟩
  | storeLock tag => exact ⟨_, rfl, command_keeps s _ storeLock_keeps⟩
  | resync tag => exact ⟨_, rfl, resyncArrives_keeps s tag⟩
  | hubStatus tag => exact ⟨_, rfl, command_keeps s _ hubStatus_keeps⟩
  | hubReset tag => exact ⟨_, rfl, hubResetCommand_keeps tag s⟩
  | inboundByte b => exact ⟨_, rfl, inboundByte_keeps s b⟩
  | reportLeadByte i => exact ⟨_, rfl, reportByte_keeps s i _⟩

theorem idle_keeps (s : State) : Keeps s s.idle := by
  unfold State.idle
  dsimp only
  split
  · exact closeBoundary_keeps s
  · next p rest _ =>
    have arrived : Keeps s.closeBoundary { s.closeBoundary with arriving := rest } :=
      .of_eq rfl (.of_eq rfl rfl) rfl rfl rfl rfl rfl rfl rfl
    exact ((closeBoundary_keeps s).trans arrived).trans (samplePeriod_keeps _ p)

theorem pending_keeps (s : State) (rest : List Instr) : Keeps s { s with pending := rest } :=
  .of_eq rfl (.of_eq rfl rfl) rfl rfl rfl rfl rfl rfl rfl

/-- A step keeps everything that stands in good order. -/
theorem step_keeps {s t : State} (h : step s = .next t) : Keeps s t := by
  unfold step at h
  split at h
  · next i rest _ =>
    obtain ⟨u, answers, keeps⟩ := exec_answers_keeping i { s with pending := rest }
    rw [answers] at h
    cases h
    exact (pending_keeps s rest).trans keeps
  · cases h
    exact idle_keeps s

/-! ## The statements -/

/-- Settles O1, by the definition of a step. -/
theorem stepExecutesFront : Obligations.StepExecutesFront := fun _ _ _ => rfl

/-- Settles O2, an answer for each instruction. -/
theorem everyStepAnswersNext : Obligations.EveryStepAnswersNext := fun i s =>
  let ⟨t, answers, _⟩ := exec_answers_keeping i s
  ⟨t, answers⟩

/-- Settles O4, from the reset values of each block. -/
theorem resetInGoodOrder : Obligations.ResetInGoodOrder :=
  ⟨(laneBounded_iff _).mpr (lane_reset_bounded rfl rfl rfl rfl rfl), reset_spokes_coherent rfl rfl,
    fun _ holds => absurd holds (by simp [State.reset, Engine.reset, Engine.holds]), rfl, reset_channels_ordered rfl,
    engine_reset_coherent⟩

/-- Settles O6. -/
theorem stepKeepsLaneBounded : Obligations.StepKeepsLaneBounded := fun s t bounded h =>
  (laneBounded_iff t).mpr ((step_keeps h).lane ((laneBounded_iff s).mp bounded))

/-- Settles O7. -/
theorem stepKeepsSpokesCoherent : Obligations.StepKeepsSpokesCoherent := fun _ _ coherent h =>
  (step_keeps h).spokes.keeps coherent

/-- Settles O8. -/
theorem stepKeepsBoundReady : Obligations.StepKeepsBoundReady := fun _ _ ready h => (step_keeps h).bound ready

/-- Settles O9. -/
theorem stepKeepsPointerStaged : Obligations.StepKeepsPointerStaged := fun _ _ staged h => (step_keeps h).pointer staged

/-- Settles O10. -/
theorem stepKeepsChannelsOrdered : Obligations.StepKeepsChannelsOrdered := fun _ _ ordered h =>
  (step_keeps h).channels ordered

/-- Settles O11. -/
theorem stepKeepsEngineCoherent : Obligations.StepKeepsEngineCoherent := fun _ _ coherent h =>
  (step_keeps h).engine coherent

/-- Settles O12. -/
theorem storeLockStays : Obligations.StoreLockStays := fun _ _ locked h => (step_keeps h).locked locked

end Sys2Proof.Machine
end

section
/-! SUPPORT. Resets: the reset values of every block (R1, R4, R147), what HUB RESET leaves (R166), and the commands of the
lane that end in it. -/

namespace Sys2Proof.Machine

/-! ## Reset values -/

theorem zeroLines_tap (i : SpokeId) (k : CellPos) (n : Fin 256) : tap n zeroLines[i][k] = ⟨0, 0⟩ := by
  have line : zeroLines[i][k] = [] := by simp [zeroLines]
  rw [line]
  rfl

/-- Settles O3, from the reset value of each block. -/
theorem resetValues : Obligations.ResetValues := by
  refine ⟨rfl, rfl, fun p => by simp [State.reset], fun f => ?_, fun i k => ?_, fun i => ?_, rfl, rfl, rfl,
    fun k => ?_, rfl, rfl, rfl, rfl, rfl, rfl, rfl, rfl, fun g => ?_, rfl, rfl, rfl, rfl, rfl, rfl, fun c => ?_, rfl,
    rfl, rfl, fun r => ?_, fun p => ?_, rfl, rfl, rfl, rfl, rfl, rfl, rfl, rfl, rfl, rfl⟩
  · simp [State.reset, FeedRec.reset, Fabric.reset, Sample.zero]
  · refine ⟨?_, ?_, ?_, fun n => ⟨zeroLines_tap i k n, zeroLines_tap i k n⟩⟩ <;>
      simp [State.reset, Fabric.reset, noCells, Sample.zero]
  · refine ⟨?_, ?_, ?_, ?_, fun k => ?_⟩
    · simp [State.reset, Link.dropped]
    · simp [State.reset, Meter.reset]
    · simp [State.reset, Engine.reset]
    · simp [State.reset, SpokeRec.reset, SpokeRec.dark]
    · simp [State.reset, State.qual, QualRec.reset]
  · refine ⟨?_, ?_, fun i c => ?_⟩ <;> simp [State.reset, PlanSlot.reset, Plan.empty, noCells]
  · simp [State.reset, Group.reset]
  · simp [State.reset, Channel.reset]
  · simp [State.reset, Store.factory]
  · simp [State.reset, Store.factory]

/-! ## Power-on reset and HUB RESET -/

/-- Settles O13, each conjunct from the definition of the reset. -/
theorem powerOnResetLeaves : Obligations.PowerOnResetLeaves := by
  intro strap s
  refine ⟨s.powerOn strap, rfl, rfl, rfl, rfl, rfl, fun p => ?_, fun i => ?_, rfl, rfl, rfl, rfl, rfl, rfl, rfl, rfl,
    fun r => ?_, fun p => ?_, rfl, rfl⟩ <;>
    simp [State.powerOn, State.reset, SpokeRec.reset, Store.powerOn]

theorem hubReset_keeps_store : Claims.HubResetKeepsStore := fun _ =>
  ⟨rfl, rfl, rfl, rfl, rfl, rfl, rfl, rfl, rfl, rfl, rfl, rfl, rfl, rfl, rfl, rfl, rfl, rfl, rfl, rfl, rfl, rfl, rfl,
    rfl, rfl, rfl, rfl, rfl⟩

/-- Making a response leaves an armed HUB RESET armed. -/
theorem deliver_resetArmed (s : State) (m : Message) : (s.deliver m).lane.resetArmed = s.lane.resetArmed := by
  unfold State.deliver
  split
  · obtain ⟨h, d, o, e⟩ := takeResponses_frame { s.lane with held := some m }
    show ({ s.lane with held := some m } : Lane).takeResponses.resetArmed = _
    rw [e]
  · rfl

theorem deliver_mgmtUp (s : State) (m : Message) : (s.deliver m).mgmtUp = s.mgmtUp := by
  unfold State.deliver
  split
  · rfl
  · rfl

theorem claim_armed {s : State} (h : s.lane.resetArmed = true) (i : Instr) : s.claim i = none := by
  unfold State.claim State.canTake
  simp [h]

/-- HUB RESET taken: the reset is armed, and its response is made. -/
theorem hubReset_command {tag : Byte} {s t : State} (h : s.claim (.hubReset tag) = some t) :
    s.command (.hubReset tag) State.armReset =
      (t.mapLane fun l => { l with resetArmed := true }).deliver (.response tag 0x3E#6 .done []) :=
  command_answers s State.armReset h rfl

theorem hubReset_arms_or_acts : Claims.HubResetArmsOrActs := by
  intro tag s t h
  have taken := hubReset_command h
  have armed : (s.command (.hubReset tag) State.armReset).lane.resetArmed = true := by
    rw [taken, deliver_resetArmed]; rfl
  have port : (s.command (.hubReset tag) State.armReset).mgmtUp = t.mgmtUp := by rw [taken, deliver_mgmtUp]; rfl
  have effect : s.hubResetCommand tag = if t.mgmtUp then s.command (.hubReset tag) State.armReset
      else (s.command (.hubReset tag) State.armReset).hubReset := by
    unfold State.hubResetCommand
    dsimp only
    rw [armed, port]
    cases t.mgmtUp <;> rfl
  refine ⟨fun up => ⟨_, rfl, ?_⟩, fun down => ⟨_, rfl, ?_⟩⟩
  · rw [effect, if_pos up]
    exact ⟨taken, armed, claim_armed armed⟩
  · rw [effect, if_neg (by rw [down]; decide), taken]
    have kept := claim_lane s h
    have frame : t.frame = s.frame := by rw [kept]
    have store : t.store = s.store := by rw [kept]
    exact ⟨(deliver_frame _ _).trans frame, (deliver_store _ _).trans store, rfl, rfl, rfl, rfl, rfl, rfl⟩

/-- Settles O53. -/
theorem hubResetActs : Obligations.HubResetActs := ⟨hubReset_keeps_store, hubReset_arms_or_acts⟩

/-! ## Commands taken, and their responses -/

theorem held_claims_nothing {s : State} {m : Message} (h : s.lane.held = some m) (i : Instr) : s.claim i = none := by
  unfold State.claim State.canTake
  simp [h]

/-- A command at the head of the intake queue that cannot be taken is left waiting. -/
theorem command_waits {s : State} {i : Instr} {rest : List Instr} {act : State → Reply} (h : s.claim i = none)
    (head : s.lane.intake = i :: rest) : s.command i act = s := by
  unfold State.command
  rw [h, head]
  exact if_pos rfl

theorem claim_head {s : State} {i : Instr} {rest : List Instr} (take : s.canTake i = true)
    (head : s.lane.intake = i :: rest) : s.claim i = some { s with lane := { s.lane with intake := rest } } := by
  unfold State.claim
  rw [if_pos take, head]
  exact if_pos rfl

theorem canTake_of {s : State} {i : Instr} (held : s.lane.held = none) (armed : s.lane.resetArmed = false)
    (start : s.store.engine ≠ .reading ∨ runsAtStartup i = true) : s.canTake i = true := by
  unfold State.canTake
  rw [held, armed]
  simpa using start

theorem hears_of {s : State} {i : Instr} (up : s.mgmtUp = true) (short : i.messageBytes.length ≤ 64)
    (room : s.lane.received + i.messageBytes.length ≤ 256) (free : s.lane.assembly = none ∨ s.due.abandon = true) :
    s.hears i = true := by
  unfold State.hears
  rcases free with none | abandoned
  · simp [up, short, room, none]
  · simp [up, short, room, abandoned]

/-- A message's arrival where no assembly goes on. -/
theorem receive_free {s : State} {i : Instr} (free : s.lane.assembly = none ∨ s.due.abandon = true) :
    s.receive i = { s with
      lane := { s.lane with received := s.lane.received + i.messageBytes.length, assembly := none }
      due := { s.due with abandon := false } } := by
  have gone : (if s.due.abandon then none else s.lane.assembly) = none := by
    split
    · rfl
    · next going => exact free.resolve_right going
  rw [receive_frame, gone]

theorem command_taken_in_order : Claims.CommandTakenInOrder := by
  intro i s held armed read
  have take : s.canTake i = true := canTake_of held armed (.inl read)
  refine ⟨fun rest head => claim_head take head, fun up short room free => ?_, fun m act rest head => ?_,
    fun act rest head => ?_⟩
  · have heard := hears_of up short room free
    refine ⟨fun empty clear => ?_, fun j rest act behind other => ?_⟩
    · unfold State.claim
      rw [if_pos take, empty]
      dsimp only
      rw [if_pos (by rw [heard, clear]; rfl), receive_free free]
    · have untaken : s.claim i = none := by
        unfold State.claim
        rw [if_pos take, behind]
        exact if_neg other
      unfold State.command State.arrive
      rw [untaken, behind]
      dsimp only
      rw [if_neg (by simpa using other), if_pos heard, receive_free free]
  · exact command_waits (held_claims_nothing (m := m) rfl i) head
  · exact command_waits (claim_armed rfl i) head

theorem startup_holds_commands : Claims.StartupHoldsCommands := by
  refine fun i s reading => ⟨fun other => ?_, fun rest runs held armed head => ?_⟩
  · unfold State.claim State.canTake
    simp [reading, other]
  · rw [claim_head (canTake_of held armed (.inr runs)) head]
    rfl

theorem response_delivered : Claims.ResponseDelivered := by
  refine fun s m held => ⟨fun down => ?_, fun up => ?_⟩
  · unfold State.deliver
    exact if_neg (by simp [down])
  · unfold State.deliver
    rw [if_pos up]
    exact congrArg (fun l => { s with lane := l }) (takeResponses_spec { s.lane with held := some m })

theorem marked_commands_answered : Claims.MarkedCommandsAnswered := fun tag code s _ =>
  ⟨fun unknown taken => answers_of s rfl taken (by simp [Instr.wf, unknown]) rfl,
    fun known taken => answers_of s rfl taken known rfl⟩

/-- Settles O54. -/
theorem commandsTakenAndAnswered : Obligations.CommandsTakenAndAnswered :=
  ⟨command_taken_in_order, startup_holds_commands, response_delivered, marked_commands_answered⟩

/-- RESYNC's message has six bytes. -/
theorem resync_length (tag : Byte) : (Instr.resync tag).messageBytes.length = 6 := rfl

/-- Settles O38: RESYNC's arrival, and `resync_spec` for what it does to the lane. -/
theorem resyncReopensIntake : Obligations.ResyncReopensIntake := by
  intro tag s up free room
  have heard : s.hears (.resync tag) = true := hears_of up (by rw [resync_length]; omega) (by rw [resync_length]; exact room) free
  have arrives : s.resyncArrives tag = (s.receive (.resync tag)).mapLane (·.resync tag) := if_pos heard
  have spec := resync_spec tag { s.lane with assembly := none, received := s.lane.received + 6 }
  refine ⟨{ s with
    lane := { s.lane with assembly := none, received := s.lane.received + 6 }.resync tag
    due := { s.due with abandon := false } }, s.lane.resyncResponse tag, ?_, rfl, ?_⟩
  · show Host.Outcome.next (s.resyncArrives tag) = _
    rw [arrives, receive_free free, resync_length]
    rfl
  · dsimp only
    rw [spec]
    refine ⟨rfl, fun clear => ?_, fun f set first => ?_, rfl, rfl, rfl⟩
    · unfold Lane.resyncResponse
      simp [clear, present8, flag, u8]
    · unfold Lane.resyncResponse
      simp [set, first, present8, flag, u8]

end Sys2Proof.Machine
end

section
/-! SUPPORT. Messages: a command's message read back by the Intake (R157, R167, R169), the bytes of an assembly (R155, R156),
and the messages of the Outbound Queue with their bytes (R162, R163, R167, R168, R172, R173). -/

namespace Sys2Proof.Machine

/-! ## The message of a command -/

/-- Every management command is sorted as itself from its tag, code and body. -/
theorem commandOf_body (i : Instr) : Laws.Sorted.Statement i := by
  cases i with
  | commandUnknown => exact Laws.Sorted.commandUnknown _ _
  | commandMalformed => exact Laws.Sorted.commandMalformed _ _
  | feedSet => exact Laws.Sorted.feedSet _ _ _ _ _ _
  | feedRead => exact Laws.Sorted.feedRead _ _
  | spokeIsolate => exact Laws.Sorted.spokeIsolate _ _
  | spokeRestore => exact Laws.Sorted.spokeRestore _ _
  | spokeQuiet => exact Laws.Sorted.spokeQuiet _ _
  | spokeWake => exact Laws.Sorted.spokeWake _ _
  | spokeRetrain => exact Laws.Sorted.spokeRetrain _ _
  | spokeRearm => exact Laws.Sorted.spokeRearm _ _
  | spokeRead => exact Laws.Sorted.spokeRead _ _
  | pollSet => exact Laws.Sorted.pollSet _ _
  | planOpen => exact Laws.Sorted.planOpen _ _
  | planEdit => exact Laws.Sorted.planEdit _ _
  | planCell => exact Laws.Sorted.planCell _ _ _
  | planExpect => exact Laws.Sorted.planExpect _ _ _
  | planClose => exact Laws.Sorted.planClose _ _
  | planDrop => exact Laws.Sorted.planDrop _ _
  | planRead => exact Laws.Sorted.planRead _ _ _
  | trimPoint => exact Laws.Sorted.trimPoint _ _ _ _
  | trim => exact Laws.Sorted.trim _ _
  | bankBind => exact Laws.Sorted.bankBind _ _ _
  | bankRelease => exact Laws.Sorted.bankRelease _ _
  | sweepOrder => exact Laws.Sorted.sweepOrder _ _
  | cutover => exact Laws.Sorted.cutover _ _ _ _ _
  | halt => exact Laws.Sorted.halt _
  | fold => exact Laws.Sorted.fold _
  | cutoverRead => exact Laws.Sorted.cutoverRead _
  | watchSet => exact Laws.Sorted.watchSet _ _ _ _ _ _ _ _ _ _
  | watchOff => exact Laws.Sorted.watchOff _ _
  | watchRead => exact Laws.Sorted.watchRead _ _
  | meterRead => exact Laws.Sorted.meterRead _ _
  | capture => exact Laws.Sorted.capture _ _ _ _ _ _
  | captureStop => exact Laws.Sorted.captureStop _
  | qualify => exact Laws.Sorted.qualify _ _ _ _ _ _ _ _
  | qualifyRead => exact Laws.Sorted.qualifyRead _ _ _
  | alarmEnable => exact Laws.Sorted.alarmEnable _ _ _
  | alarmMask => exact Laws.Sorted.alarmMask _ _ _
  | alarmTrack => exact Laws.Sorted.alarmTrack _ _
  | alarmDone => exact Laws.Sorted.alarmDone _ _
  | alarmRead => exact Laws.Sorted.alarmRead _ _ _
  | storeRead => exact Laws.Sorted.storeRead _ _
  | storeErase => exact Laws.Sorted.storeErase _ _
  | storeWrite => exact Laws.Sorted.storeWrite _ _ _ _ _ _
  | storeLock => exact Laws.Sorted.storeLock _
  | resync => exact Laws.Sorted.resync _
  | hubStatus => exact Laws.Sorted.hubStatus _
  | hubReset => exact Laws.Sorted.hubReset _
  | _ => exact fun _ h => nomatch h

theorem halfBytes_length (h : Half) : (halfBytes h).length = 2 := rfl

theorem withCheck_length (bytes : List Byte) : (withCheck bytes).length = bytes.length + 2 := by
  rw [withCheck, List.length_append, halfBytes_length]

/-- What is closed by its check passes it. -/
theorem checkPasses_withCheck (bytes : List Byte) : checkPasses (withCheck bytes) = true := by
  unfold checkPasses
  rw [withCheck_length, Nat.add_sub_cancel]
  simp [withCheck]

theorem envelope_length (kind : BitVec 2) (code : BitVec 6) (tag : Byte) (body : List Byte) :
    (envelope kind code tag body).length = body.length + 6 := by
  rw [envelope, withCheck_length]
  rfl

theorem kind_and_code (kind : BitVec 2) (code : BitVec 6) :
    (kind ++ code : Byte).extractLsb' 6 2 = kind ∧ (kind ++ code : Byte).extractLsb' 0 6 = code := by
  revert kind code
  decide

/-- The message of a COMMAND is read back as what its tag, code and body are sorted to. -/
theorem commandIn_envelope (code : BitVec 6) (tag : Byte) (body : List Byte) :
    commandIn (envelope 1#2 code tag body) = some (commandOf tag code body) := by
  obtain ⟨kind, same⟩ := kind_and_code 1#2 code
  have passes : checkPasses (envelope 1#2 code tag body) = true := checkPasses_withCheck _
  have laid (len : Byte) (close : List Byte) (two : close.length = 2)
      (h : checkPasses (messageLead :: len :: (1#2 ++ code : Byte) :: tag :: (body ++ close)) = true) :
      commandIn (messageLead :: len :: (1#2 ++ code : Byte) :: tag :: (body ++ close)) =
        some (commandOf tag code body) := by
    unfold commandIn
    dsimp only
    rw [h, kind, same, List.length_append, two, Nat.add_sub_cancel, List.take_left]
    rfl
  exact laid _ _ (halfBytes_length _) passes

/-- Settles O5: the envelope is opened, and the body is sorted as the command. -/
theorem messageReadsBack : Obligations.MessageReadsBack := by
  intro i wf header
  unfold Instr.messageBytes
  rw [commandIn_envelope, commandOf_body i wf header]

/-- The body of a command is no longer than its message allows. -/
theorem body_length (i : Instr) (wf : i.wf = true) : i.body.length ≤ 58 := by
  have five (es : List CellEntry) : (es.flatMap CellEntry.bytes).length = es.length * 5 := by
    simp [List.length_flatMap, CellEntry.bytes]
  have two (ps : List ExpectPair) : (ps.flatMap ExpectPair.bytes).length = ps.length * 2 := by
    simp [List.length_flatMap, ExpectPair.bytes]
  cases i with
  | planCell tag b es => simp [Instr.wf] at wf; simp [Instr.body, five]; omega
  | planExpect tag b ps => simp [Instr.wf] at wf; simp [Instr.body, two]; omega
  | trim tag vs => simp [Instr.wf] at wf; simp [Instr.body]; omega
  | sweepOrder tag l => simp [Instr.wf] at wf; simp [Instr.body]; omega
  | meterRead tag l => simp [Instr.wf] at wf; simp [Instr.body]; omega
  | commandMalformed tag code => simp only [Instr.body, shortestMalformed]; split <;> simp
  | _ => simp [Instr.body, halfBytes, wordBytes, triBytes]

theorem commands_are_whole : Claims.CommandsAreWhole := by
  intro i wf _
  have short := body_length i wf
  have length : i.messageBytes.length = i.body.length + 6 := envelope_length ..
  refine ⟨rfl, by omega, by omega, ?_⟩
  rw [length]
  rfl

/-! ## Bytes that arrive -/

theorem message_sorted : Claims.MessageSorted := by
  intro bytes s begun some' whole up room
  refine ⟨_, congrArg Host.Outcome.next (inboundBytes_complete bytes s some' up room whole), ?_⟩
  obtain ⟨_, long, _, _⟩ := whole
  exact completeMessage_taken _ _ (Nat.le_trans (by decide) long)

/-- Settles O21. -/
theorem completedCommandOffered : Obligations.CompletedCommandOffered := ⟨message_sorted, commands_are_whole⟩

theorem starved_assembly_abandoned : Claims.StarvedAssemblyAbandoned := fun _ h => congrArg Host.Outcome.next (if_pos h)

/-- The state in which a byte has arrived that leaves an assembly. -/
def State.heard (s : State) (a : Option (List Byte)) (fed : Bool) : State :=
  { s with
    due := { s.due with abandon := false }
    lane := { s.lane with received := s.lane.received + 1, assembly := a, fed := fed } }

theorem inboundByte_of_begun (s : State) (b : Byte) (a : Option (List Byte)) (up : s.mgmtUp = true)
    (room : s.lane.received < 256) (begun : (if s.due.abandon then none else s.lane.assembly) = a) :
    exec (.inboundByte b) s = .next ((s.heard a s.lane.fed).intakeByte b) := by
  show Host.Outcome.next (s.inboundByte b) = _
  rw [inboundByte_heard s b up room, begun]
  rfl

theorem inbound_byte_assembles : Claims.InboundByteAssembles := by
  intro b s up room begun heard
  have takes (a : Option (List Byte)) (h : begun = a) := inboundByte_of_begun s b a up room h
  refine ⟨fun h lead => ?_, fun h lead => ?_, fun x h out => ?_, fun x h low high => ?_, fun x len rest h more => ?_,
    fun taken h whole => ?_⟩
  · rw [takes _ h]
    exact congrArg Host.Outcome.next (if_neg lead)
  · subst lead
    rw [takes _ h]
    rfl
  · rw [takes _ h]
    exact congrArg Host.Outcome.next (if_neg (by omega))
  · rw [takes _ h]
    exact congrArg Host.Outcome.next (if_pos ⟨low, high⟩)
  · rw [takes _ h, intakeByte_more _ b x len rest rfl, if_neg (by omega)]
    rfl
  · obtain ⟨first, low, high, second⟩ := whole
    obtain ⟨x, len, rest, rfl⟩ : ∃ x len rest, taken = x :: len :: rest := by
      match taken, low with
      | [], low => simp at low
      | [_], low => simp at low
      | x :: len :: rest, _ => exact ⟨x, len, rest, rfl⟩
    have all : rest.length + 3 = len.toNat := by
      simp at second low high
      rw [second]
      simp
      omega
    refine ⟨_, takes _ h, ?_⟩
    rw [intakeByte_more _ b x len rest rfl, if_pos all]
    exact completeMessage_taken _ _ (Nat.le_trans (by decide) low)

/-- Settles O51. -/
theorem inboundBytesAssemble : Obligations.InboundBytesAssemble := ⟨starved_assembly_abandoned, inbound_byte_assembles⟩

/-! ## Messages taken and sent -/

theorem waiting_responses_taken : Claims.WaitingResponsesTaken := by
  refine fun s m up room => ⟨fun held holder => ?_, fun holder => ?_⟩
  · show Host.Outcome.next s.responseTaken = _
    unfold State.responseTaken
    rw [if_pos (by simp [up, holder])]
    exact congrArg (fun l => Host.Outcome.next { s with lane := l }) (takeHeld_room held room)
  · show Host.Outcome.next s.resyncTaken = _
    unfold State.resyncTaken
    rw [if_pos up]
    exact congrArg (fun l => Host.Outcome.next { s with lane := l }) (takeHolder_room holder room)

theorem oldest_message_leaves : Claims.OldestMessageLeaves := by
  intro s m rest up queue reach
  have leaves : s.lane.canLeave = true := by
    unfold Lane.canLeave
    rw [queue]
    exact decide_eq_true reach
  have left : s.lane.leave = { s.lane with
      outbound := rest, wire := m.bytes, sent := s.lane.sent + (m.bytes.length - s.lane.headSent), headSent := 0 } := by
    unfold Lane.leave
    rw [queue]
  refine ⟨fun kept => ⟨s.mapLane (·.leave), ?_, rfl, ?_⟩, fun reset => ?_⟩
  · show Host.Outcome.next s.messageLeaves = _
    unfold State.messageLeaves State.leave
    rw [if_pos (by simp [up, leaves]), if_neg (by simp [kept])]
  · show s.lane.leave.outbound = _ ∧ (_ → s.lane.leave.free = _) ∧ s.lane.leave.intake = _ ∧ s.lane.leave.wire = _
    rw [left]
    refine ⟨rfl, fun full => ?_, rfl, rfl⟩
    rw [queue] at full
    simp [Lane.free, queue] at full ⊢
    omega
  · show Host.Outcome.next s.resetLeaves = _
    unfold State.resetLeaves State.leave
    rw [if_pos (by simp [up, leaves, reset]), if_pos reset]

/-! ## The bytes of what is sent -/

theorem response_laid_out : Claims.ResponseLaidOut := by
  intro tag code body x hx sent
  have status : u8 x.1.code = [x.2] := by
    revert x
    decide
  unfold Message.bytes
  dsimp only
  rw [status]
  rfl

theorem flag_eq (b : Bool) : flag b = [if b then 1 else 0] := by
  cases b <;> rfl

theorem detail_laid_out : Claims.DetailLaidOut := by
  refine ⟨rfl, rfl, rfl, by decide, fun x hx => ⟨?_, fun len u cut => ?_⟩, by decide, fun load => ⟨rfl, fun x hx => ?_⟩,
    fun halted folded line g => ⟨?_, ?_⟩, fun op place failed => ?_, fun n => ⟨rfl, rfl, rfl⟩, fun level => rfl,
    fun tag => rfl, fun codes => ?_⟩
  · revert x
    decide
  · have kind : u8 (faultKindCode x.1) = [x.2] := by
      revert x
      decide
    have last : ∀ (u : UnitCode) (cut : Bool), BitVec.ofNat 8 (u.val + if cut then 128 else 0) =
        (BitVec.ofBool cut ++ 0#5 ++ BitVec.ofNat 2 u.val : Byte) := by decide
    simp only [Detail.bytes, kind]
    simp only [u8, last]
    rfl
  · have outcome : u8 x.1.code = [x.2] := by
      revert x
      decide
    simp only [Detail.bytes, outcome]
    rfl
  · simp only [Detail.bytes, flag_eq]
    rfl
  · simp only [Detail.bytes, flag_eq]
    rfl
  · simp only [Detail.bytes, flag_eq]
    rfl
  · have five : ∀ codes : BitVec 5, BitVec.ofNat 8 codes.toNat = (0#3 ++ codes : Byte) := by decide
    simp only [Detail.bytes, u8, five]
    rfl

theorem detail_length (d : Detail) : d.bytes.length = 4 := by
  cases d <;> rfl

theorem alarm_notice_laid_out : Claims.AlarmNoticeLaidOut := by
  intro ch part parts entries one le six sent
  have eight : (entries.flatMap SourceEntry.bytes).length = 8 * entries.length := by
    have each (e : SourceEntry) : e.bytes.length = 8 := by
      simp [SourceEntry.bytes, opt8, u8, halfBytes_length, detail_length]
    simp [List.length_flatMap, each, Nat.mul_comm]
  have number : BitVec.ofNat 8 (16 * part + parts) = (BitVec.ofNat 4 part ++ BitVec.ofNat 4 parts : Byte) := by
    have small : part ≤ 6 := by omega
    interval_cases part <;> interval_cases parts <;> decide
  have length : (u8 ch ++ u8 (16 * part + parts) ++ entries.flatMap SourceEntry.bytes).length + 6 = 8 + 8 * entries.length := by
    simp [u8, eight]
    omega
  unfold Message.bytes envelope
  dsimp only
  rw [length]
  simp only [u8, number]
  rfl

theorem flags_laid_out (r : Result) : BitVec.ofNat 8 r.flags =
    (0#2 ++ BitVec.ofBool (!r.complete) ++ BitVec.ofBool r.servedContinuous ++ BitVec.ofBool r.servedSingle ++
      BitVec.ofBool (r.target.kind == .raw) ++ BitVec.ofNat 2 r.target.pos.val : Byte) := by
  have bits : ∀ (p : CellPos) (k a b c : Bool),
      BitVec.ofNat 8 (p.val + 4 * k.toNat + 8 * a.toNat + 16 * b.toNat + 32 * (!c).toNat) =
        (0#2 ++ BitVec.ofBool (!c) ++ BitVec.ofBool b ++ BitVec.ofBool a ++ BitVec.ofBool k ++ BitVec.ofNat 2 p.val :
          Byte) := by decide
  have kind : r.target.kind.code = (r.target.kind == .raw).toNat := by
    cases r.target.kind <;> rfl
  rw [← bits, ← kind]
  rfl

theorem rawPart_length (samples : List Sample) (h : samples.length = 32) : (rawPart samples).length = 49 := by
  rw [rawPart_packed, List.length_append, packTwelve_length, List.length_map, h]
  rfl

theorem capture_notice_laid_out : Claims.CaptureNoticeLaidOut := by
  intro r missed flags sent
  have byte := flags_laid_out r
  refine ⟨fun mean peak level h => ?_, fun samples h length => ?_⟩
  · simp only [Message.bytes, h, Measured.bytes, u8, byte]
    cases level with
    | none => rfl
    | some l => rfl
  · have count : (u8 r.target.spoke ++ u8 r.flags ++ halfBytes r.frame ++ u8 missed ++ rawPart samples).length + 6 =
        60 := by
      simp [u8, halfBytes_length, rawPart_length samples length]
    simp only [Message.bytes, h, Measured.bytes, envelope]
    rw [count]
    simp only [u8, byte]
    rfl

/-! ## RAW samples -/

theorem mem_components {samples : List Sample} {z : Int} :
    z ∈ components samples ↔ ∃ x ∈ samples, z ∈ [x.i, x.q] := List.mem_flatMap

/-- A scaled component has six bits where the component lies between bounds that grow with the shift. -/
theorem six_bits_iff (z : Int) (n : Nat) :
    (-32 ≤ z / 2 ^ n ∧ z / 2 ^ n ≤ 31) ↔ (-32 * 2 ^ n ≤ z ∧ z < 32 * 2 ^ n) := by
  have pos : (0 : Int) < 2 ^ n := by positivity
  have top : z / 2 ^ n ≤ 31 ↔ z < 32 * 2 ^ n := by rw [← Int.lt_add_one_iff, Int.ediv_lt_iff_lt_mul pos]; norm_num
  rw [Int.le_ediv_iff_mul_le pos, top]

theorem packedAt_of_triBytes {packed : List Byte} {n : Nat} {bits : BitVec 24}
    (h : (packed.drop (3 * n)).take 3 = triBytes bits) : PackedAt packed n bits :=
  ⟨_, _, _, h, triBytes_joined bits⟩

theorem append_pairs (a b c d : BitVec 6) : (a ++ b ++ (c ++ d) : BitVec 24) = a ++ b ++ c ++ d :=
  (BitVec.append_assoc (x₁ := a ++ b) (x₂ := c) (x₃ := d)).symm

theorem raw_samples_packed : Claims.RawSamplesPacked := by
  intro samples length full within
  have fits (n : Nat) : ((components samples).all fun z => -32 ≤ z / 2 ^ n ∧ z / 2 ^ n ≤ 31) = true ↔ within n := by
    simp only [List.all_eq_true, decide_eq_true_eq, six_bits_iff, mem_components, within]
    exact ⟨fun h x hx z hz => h z ⟨x, hx, hz⟩, fun h z ⟨x, hx, hz⟩ => h x hx z hz⟩
  have top : within 10 := by
    intro x hx z hz
    have bounds := full x hx
    simp at hz
    rcases hz with rfl | rfl <;> omega
  obtain ⟨small, least, below⟩ := leastShift_spec 10
    (fun n => (components samples).all fun z => -32 ≤ z / 2 ^ n ∧ z / 2 ^ n ≤ 31) ((fits 10).mpr top)
  let sixBits (x : Sample) : BitVec 12 :=
    BitVec.ofInt 6 (x.i / 2 ^ rawShift samples) ++ BitVec.ofInt 6 (x.q / 2 ^ rawShift samples)
  refine ⟨rawShift samples, packTwelve (samples.map sixBits), rawPart_packed samples, ?_, small, (fits _).mp least, fun n hn => ?_,
    fun n x y hx hy => ?_⟩
  · rw [packTwelve_length, List.length_map, length]
  · intro h
    exact absurd ((fits n).mpr h) (by rw [below n hn]; decide)
  · apply packedAt_of_triBytes
    rw [packTwelve_at n _ (sixBits x) (sixBits y) (by rw [List.getElem?_map, hx]; rfl)
      (by rw [List.getElem?_map, hy]; rfl)]
    have nonneg : (0 : Int) ≤ 2 ^ rawShift samples := by positivity
    simp only [Int.fdiv_eq_ediv_of_nonneg _ nonneg]
    exact congrArg triBytes (append_pairs _ _ _ _)

/-- Settles O52. -/
theorem outboundQueueMoves : Obligations.OutboundQueueMoves :=
  ⟨waiting_responses_taken, oldest_message_leaves, response_laid_out, alarm_notice_laid_out, detail_laid_out,
    capture_notice_laid_out, raw_samples_packed⟩

end Sys2Proof.Machine
end

section
/-! SUPPORT. Raises (R130), isolation and the class check (R26, R29), entry to TRAINING and to DARK (R22, R24, R30, R33), and
the spoke commands that hold, restore and retrain (R43 to R48). -/

namespace Sys2Proof.Machine

/-! ## Raises (R130) -/

theorem raise_disabled {s : State} {ch : ChannelId} (src : Option Nat) (d : Detail)
    (h : s.channels[ch].enabled = false) : s.raise ch src d = s := by
  have same : update s.channels ch (Channel.raise s.frame src d) = s.channels := by
    apply table_ext
    intro c
    rw [update_get]
    split
    · next e => rw [e]; exact if_neg (by rw [h]; decide)
    · rfl
  exact congrArg (fun v => { s with channels := v }) same

theorem raise_enabled {s : State} {ch : ChannelId} (src : Option Nat) (d : Detail)
    (h : s.channels[ch].enabled = true) :
    (s.raise ch src d).channels[ch] = { s.channels[ch] with list := gather s.frame src d s.channels[ch].list } :=
  (raise_at s ch src d).trans (if_pos h)

theorem gather_new {fr : Half} {src : Option Nat} {d : Detail} {l : List SourceEntry} (h : ∀ e ∈ l, e.source ≠ src) :
    gather fr src d l = l ++ [⟨src, fr, 1, d⟩] := by
  induction l with
  | nil => rfl
  | cons x xs ih =>
    rw [List.forall_mem_cons] at h
    unfold gather
    rw [if_neg h.1, ih h.2]
    rfl

theorem gather_known {fr : Half} {src : Option Nat} {d : Detail} {l r : List SourceEntry} {e : SourceEntry}
    (he : e.source = src) (h : ∀ x ∈ l, x.source ≠ src) :
    gather fr src d (l ++ e :: r) = l ++ { e with count := min 255 (e.count + 1), detail := d } :: r := by
  induction l with
  | nil => exact if_pos he
  | cons x xs ih =>
    rw [List.forall_mem_cons] at h
    rw [List.cons_append, gather, if_neg h.1, ih h.2]
    rfl

theorem gather_ne_nil (fr : Half) (src : Option Nat) (d : Detail) (l : List SourceEntry) : gather fr src d l ≠ [] := by
  obtain ⟨e, he, _⟩ := gather_mem fr src d l
  exact List.ne_nil_of_mem he

/-- Settles O15, from what a raise gathers. -/
theorem raiseGathers : Obligations.RaiseGathers := by
  intro s ch src d
  refine ⟨fun off => raise_disabled src d off, fun c n => raise_other s ch c src d n, fun on => ?_⟩
  rw [raise_enabled src d on]
  refine ⟨?_, rfl, rfl, on, gather_new, fun l e r hl he hb => ?_⟩
  · simpa [Channel.pending] using gather_ne_nil _ _ _ _
  · rw [hl]
    exact gather_known he hb

/-! ## Isolation requests and the class check (R26, R29) -/

theorem isolate_of_not_live {s : State} {i : SpokeId} (r : Reason) (h : s.spokes[i].hold.isolates = false)
    (nl : s.spokes[i].state ≠ .live) : s.isolate i r =
      (s.mapSpoke i fun x => { x with hold := .isolate r, state := stateWhenIsolated r x.state, settle := 0 }).raise
        chIsolation (some i.val) (.isolation r) := by
  unfold State.isolate
  rw [if_neg (by rw [h]; decide), moveSpoke_not_live _ _ _ nl]

/-- The table of R26, read by its rows. -/
theorem stateWhenIsolated_eq (reason : Reason) (st : SpokeState) : stateWhenIsolated reason st =
    match st with
    | .live | .quiet | .isolated => .isolated
    | .training => if reason = .noHello ∨ reason = .classUnknown then .isolated else .training
    | .dark => .dark := by
  cases st with
  | training => cases reason <;> simp [stateWhenIsolated]
  | _ => rfl

theorem isolation_sets_hold : Claims.IsolationSetsHold := by
  intro s i reason t
  refine ⟨fun held => isolate_held s i reason held, fun free => ⟨isolate_frame s i reason, ?_, ?_, fun nl => ?_,
    fun live => ⟨(isolate_tells s i reason free live).1, fun c n => ?_, ?_⟩⟩⟩
  · show (s.isolate i reason).spokes = _
    rw [isolate_spokes, if_neg (by rw [free]; decide)]
    congr 1
    funext r
    exact congrArg (fun st => { r with hold := .isolate reason, state := st, settle := 0 }) (stateWhenIsolated_eq reason r.state)
  · exact (isolate_raises s i reason free).trans (raise_at s chIsolation _ _).symm
  · show (s.isolate i reason).engine = _ ∧ (s.isolate i reason).capture = _ ∧ (s.isolate i reason).due = _ ∧
      ∀ c : ChannelId, c ≠ 13 → (s.isolate i reason).channels[c] = s.channels[c]
    rw [isolate_of_not_live reason free nl]
    exact ⟨rfl, rfl, rfl, fun c n => raise_other _ chIsolation c _ _ n⟩
  · show (s.isolate i reason).channels[c] = _
    unfold State.isolate
    rw [if_neg (by rw [free]; decide)]
    refine (raise_other _ chIsolation c _ _ n).trans ?_
    rw [(moveSpoke_tells s i _ live).2]
  · show (s.isolate i reason).capture = _
    unfold State.isolate
    rw [if_neg (by rw [free]; decide), raise_capture, moveSpoke_capture s i _ live]

theorem classCheck_not_live {s : State} {i : SpokeId} (h : s.spokes[i].state ≠ .live) : s.classCheck i = s := if_neg h

theorem class_check_isolates_mismatch : Claims.ClassCheckIsolatesMismatch := fun s i =>
  ⟨classCheck_not_live, fun h => classCheck_passes s i (.inl h), fun h => classCheck_passes s i (.inr h),
    fun c live expects other => classCheck_fails s i c live expects other⟩

/-- Settles O42. -/
theorem isolationAndClassCheck : Obligations.IsolationAndClassCheck := ⟨isolation_sets_hold, class_check_isolates_mismatch⟩

/-! ## Entry to TRAINING (R22, R30) -/

theorem mem_request (q : Request) (l : Link) : q ∈ (l.request q).requests := by
  unfold Link.request
  split
  · assumption
  · exact List.mem_append_right _ (List.mem_singleton.mpr rfl)

theorem enterTraining_requests (s : State) (i : SpokeId) : Request.hello ∈ (s.enterTraining i).links[i].requests := by
  rw [enterTraining_links, update_same]
  exact mem_request _ _

theorem link_lock_enters_training : Claims.LinkLockEntersTraining := by
  intro i s dark free
  have enters : s.linkLock i = (s.mapLink i fun l => { l with locked := true }).enterTraining i := if_pos ⟨dark, free⟩
  refine ⟨_, congrArg Host.Outcome.next enters, rfl, enterTraining_here _ i, ?_, enterTraining_requests _ i,
    fun j n => ⟨?_, ?_⟩⟩
  · rw [enterTraining_locked, mapLink_here]
  · rw [enterTraining_spokes, update_other _ _ n]
    rfl
  · rw [enterTraining_links, update_other _ _ n, mapLink_links, update_other _ _ n]

/-! ## DARK with the link dropped (R24, R33, R47, R124) -/

/-- What the loss of a link and SPOKE RETRAIN do alike: entry to DARK with the hold kept, and the link dropped. -/
def State.goDark (i : SpokeId) (s : State) : State := (s.enterDark i).mapLink i fun _ => .dropped

theorem linkLoss_goDark {s : State} {i : SpokeId} (h : s.spokes[i].state ≠ .dark) :
    s.linkLoss i = (s.goDark i).raise chLinkLost (some i.val) .none := if_neg h

theorem spokeRetrain_goDark {s : State} {b : Byte} {i : SpokeId} (hb : below 32 b = some i) :
    s.spokeRetrain b = (s.goDark i).doneWith := by
  unfold State.spokeRetrain
  rw [hb]
  rfl

/-- The record of a spoke gone DARK, its link, its qualifier records, the other spokes, and the channels but two. -/
theorem goDark_leaves (s : State) (i : SpokeId) :
    (s.goDark i).spokes[i] = .dark s.spokes[i].hold ∧ (s.goDark i).links[i] = .dropped ∧
    (∀ k : FaultKind, (s.goDark i).qual i k = .reset) ∧
    (∀ j : SpokeId, j ≠ i → (s.goDark i).spokes[j] = s.spokes[j] ∧ (s.goDark i).links[j] = s.links[j] ∧
      (s.goDark i).quals[j] = s.quals[j]) ∧
    ∀ c : ChannelId, c ≠ chDuration → c ≠ chCutoverEnd → (s.goDark i).channels[c] = s.channels[c] := by
  obtain ⟨e, v, k, d, frame, channels⟩ := enterDark_frame s i
  unfold State.goDark
  rw [frame]
  refine ⟨update_same _ _ _, update_same _ _ _, fun k => ?_, fun j n => ⟨update_other _ _ n, ?_, update_other _ _ n⟩,
    fun c hd he => channels c hd he⟩
  · unfold State.qual
    rw [mapLink_quals, update_same]
    simp
  · rw [mapLink_links, update_other _ _ n, update_other _ _ n]

theorem goDark_duration (s : State) (i : SpokeId) : (s.goDark i).channels[(1 : ChannelId)] = durationCutShort s i := by
  unfold State.goDark
  rw [mapLink_channels]
  exact enterDark_duration s i

theorem link_loss_goes_dark : Claims.LinkLossGoesDark := by
  intro i s lit
  obtain ⟨record, link, quals, others, channels⟩ := goDark_leaves s i
  have duration := goDark_duration s i
  have wide := linkLoss_wide s i lit
  refine ⟨s.linkLoss i, rfl, ?_⟩
  rw [linkLoss_goDark lit] at wide ⊢
  generalize s.goDark i = u at record link quals others channels duration wide ⊢
  refine ⟨record, link, quals, others, fun on => ?_, ?_, wide.self⟩
  · exact raise_mem _ _ _ _ (by rw [channels _ (by decide) (by decide)]; exact on)
  · rw [raise_other _ _ _ _ _ (by decide), duration]

/-- Settles O43. -/
theorem linkLockAndLoss : Obligations.LinkLockAndLoss := ⟨link_lock_enters_training, link_loss_goes_dark⟩

/-! ## SPOKE ISOLATE and SPOKE QUIET (R43, R45) -/

section SpokeHolds

variable {s : State} {b : Byte} {i : SpokeId}

theorem spokeIsolate_held (hb : below 32 b = some i) (h : s.spokes[i].hold.isolates = true) :
    s.spokeIsolate b = s.doneWith := by
  unfold State.spokeIsolate
  rw [hb]
  exact if_pos h

theorem spokeIsolate_free (hb : below 32 b = some i) (h : s.spokes[i].hold.isolates = false) : s.spokeIsolate b =
    (s.moveSpoke i fun r => { r with hold := .isolate .admin, state := stateWhenIsolated .admin r.state }).doneWith := by
  unfold State.spokeIsolate
  rw [hb]
  exact if_neg (by rw [h]; decide)

theorem spokeQuiet_held (hb : below 32 b = some i) (h : s.spokes[i].hold.isolates = true) :
    s.spokeQuiet b = s.refuse .wrongState := by
  unfold State.spokeQuiet
  rw [hb]
  exact if_pos h

theorem spokeQuiet_live (hb : below 32 b = some i) (h : s.spokes[i].hold.isolates = false)
    (live : s.spokes[i].state = .live) :
    s.spokeQuiet b = (s.moveSpoke i fun r => { r with hold := .quiet, state := .quiet }).doneWith := by
  unfold State.spokeQuiet
  rw [hb]
  dsimp only
  rw [if_neg (by rw [h]; decide), if_pos live]

theorem spokeQuiet_not_live (hb : below 32 b = some i) (h : s.spokes[i].hold.isolates = false)
    (nl : s.spokes[i].state ≠ .live) : s.spokeQuiet b = (s.mapSpoke i fun r => { r with hold := .quiet }).doneWith := by
  unfold State.spokeQuiet
  rw [hb]
  dsimp only
  rw [if_neg (by rw [h]; decide), if_neg nl]

end SpokeHolds

theorem moveSpoke_spoke (s : State) (i : SpokeId) (f : SpokeRec → SpokeRec) : FrameSpoke s (s.moveSpoke i f) :=
  ⟨_, _, _, _, _, moveSpoke_frame s i f⟩

theorem moveSpoke_other_spoke (s : State) {i j : SpokeId} (f : SpokeRec → SpokeRec) (n : j ≠ i) :
    (s.moveSpoke i f).spokes[j] = s.spokes[j] := by
  rw [moveSpoke_spokes, update_other _ _ n]

theorem moveSpoke_here (s : State) (i : SpokeId) (f : SpokeRec → SpokeRec) :
    (s.moveSpoke i f).spokes[i] = { f s.spokes[i] with settle := 0 } := by
  rw [moveSpoke_spokes, update_same]

/-- Settles O25: the cases of the two commands, and what a move out of LIVE tells the engine. -/
theorem isolateAndQuietSetHolds : Obligations.IsolateAndQuietSetHolds := by
  intro tag b i s t hb
  refine ⟨fun hc => ?isolate, fun hc => ⟨fun held => answers_of s rfl hc rfl (spokeQuiet_held hb held), fun free => ?quiet⟩⟩
  case isolate =>
    rcases held : t.spokes[i].hold.isolates with _ | _
    · refine ⟨_, answers_of s rfl hc rfl (spokeIsolate_free hb held), (moveSpoke_spoke t i _).self,
        fun j n => moveSpoke_other_spoke t _ n, nofun, fun _ => ?_, fun _ live => moveSpoke_tells t i _ live, fun nl => ?_⟩
      · rw [moveSpoke_here, stateWhenIsolated_eq]
        cases t.spokes[i].state <;> rfl
      · rw [moveSpoke_not_live _ _ _ nl]
        exact ⟨rfl, rfl⟩
    · exact ⟨t, answers_of s rfl hc rfl (spokeIsolate_held hb held), rfl, fun _ _ => rfl, fun _ => rfl, nofun, nofun,
        fun _ => ⟨rfl, rfl⟩⟩
  case quiet =>
    by_cases live : t.spokes[i].state = .live
    · obtain ⟨engine, channels⟩ := moveSpoke_tells t i (fun r => { r with hold := .quiet, state := .quiet }) live
      exact ⟨_, answers_of s rfl hc rfl (spokeQuiet_live hb free live), (moveSpoke_spoke t i _).self,
        fun j n => moveSpoke_other_spoke t _ n, fun _ => ⟨moveSpoke_here t i _, engine, channels⟩,
        fun nl => absurd live nl⟩
    · exact ⟨_, answers_of s rfl hc rfl (spokeQuiet_not_live hb free live), rfl,
        fun j n => by rw [mapSpoke_at, if_neg n], fun l => absurd l live, fun _ => rfl⟩

/-! ## SPOKE RESTORE, SPOKE RETRAIN and SPOKE REARM (R44, R47, R48) -/

section SpokeRestore

variable {s : State} {b : Byte} {i : SpokeId}

theorem spokeRestore_unheld (hb : below 32 b = some i) (h : s.spokes[i].hold.isolates = false) :
    s.spokeRestore b = s.refuse .wrongState := by
  unfold State.spokeRestore
  rw [hb]
  dsimp only
  exact if_pos (by rw [h]; rfl)

/-- The command's order of questions once the hold is read: the state, then the known class. -/
theorem spokeRestore_held (hb : below 32 b = some i) (h : s.spokes[i].hold.isolates = true) : s.spokeRestore b =
    if s.spokes[i].state = .isolated then
      if s.spokes[i].knownClass.isSome then ((s.mapSpoke i fun r => { r with hold := .none }).enterLive i).doneWith
      else ((s.mapSpoke i fun r => { r with hold := .none }).enterTraining i).doneWith
    else (s.mapSpoke i fun r => { r with hold := .none }).doneWith := by
  unfold State.spokeRestore
  rw [hb]
  dsimp only
  exact if_neg (by rw [h]; decide)

theorem spokeRearm_eq (hb : below 32 b = some i) : s.spokeRearm b =
    if s.spokes[i].overrun then (s.mapSpoke i fun r => { r with overrun := false, firstDiscarded := none }).doneWith
    else s.refuse .wrongState := by
  unfold State.spokeRearm
  rw [hb]

end SpokeRestore

/-- What an ISOLATED spoke's restore does where its class is known. -/
theorem restored_enters_live (t : State) (i : SpokeId) : let u := (t.mapSpoke i fun r => { r with hold := .none }).enterLive i
    (∀ j : SpokeId, j ≠ i → u.spokes[j] = t.spokes[j]) ∧
    ((t.expectedClass i = none ∨ t.expectedClass i = t.spokes[i].knownClass) →
      u.spokes[i] = { t.spokes[i] with hold := .none, state := .live, settle := t.restoreSettle } ∧
      u.channels = t.channels) ∧
    ((∃ c, t.expectedClass i = some c ∧ t.spokes[i].knownClass ≠ some c) →
      u.spokes[i] = { t.spokes[i] with hold := .isolate .classMismatch, state := .isolated, settle := 0 } ∧
      u.channels[(13 : ChannelId)] =
        (t.raise 13 (some i.val) (.isolation .classMismatch)).channels[(13 : ChannelId)]) := by
  have expects : (t.mapSpoke i fun r => { r with hold := .none }).expectedClass i = t.expectedClass i :=
    expectedClass_of i rfl rfl
  have known : (t.mapSpoke i fun r => { r with hold := .none }).spokes[i] = { t.spokes[i] with hold := .none } :=
    mapSpoke_here t i _
  refine ⟨fun j n => ?_, fun h => ?_, fun ⟨c, hc, hk⟩ => ⟨?_, ?_⟩⟩
  · rw [enterLive_other_spoke _ n, mapSpoke_at, if_neg n]
  · rw [enterLive_passes _ i (by rw [expects, known]; exact h), mapSpoke_here, known]
    exact ⟨rfl, rfl⟩
  · rw [enterLive_fails_spokes _ i c (expects.trans hc) (by rw [known]; exact hk), update_same, known]
  · exact enterLive_raises _ i c (expects.trans hc) (by rw [known]; exact hk)

theorem restore_clears_isolate_hold : Claims.RestoreClearsIsolateHold := by
  intro tag b i s t hb hc
  refine ⟨fun free => answers_of s rfl hc rfl (spokeRestore_unheld hb free), fun held => ?_⟩
  have act := spokeRestore_held hb held
  by_cases isolated : t.spokes[i].state = .isolated
  · rw [if_pos isolated] at act
    rcases known : t.spokes[i].knownClass with _ | c
    · rw [known, if_neg (by decide)] at act
      refine ⟨_, answers_of s rfl hc rfl act, fun j n => ?_, rfl, fun _ h => absurd rfl h, fun _ h => absurd rfl h,
        fun _ _ => ⟨?_, enterTraining_requests _ i, rfl⟩, fun h => absurd isolated h⟩
      · rw [enterTraining_spokes, update_other _ _ n, mapSpoke_at, if_neg n]
      · rw [enterTraining_here, mapSpoke_here]
    · rw [known, if_pos Option.isSome_some] at act
      obtain ⟨others, passes, fails⟩ := restored_enters_live t i
      rw [known] at passes fails
      refine ⟨_, answers_of s rfl hc rfl act, others, (restoreLive_link t i).self, fun _ _ h => passes h,
        fun _ _ h => ?_, fun _ => nofun, fun h => absurd isolated h⟩
      obtain ⟨record, raised⟩ := fails h
      exact ⟨by rw [record, ← isolated], raised⟩
  · rw [if_neg isolated] at act
    exact ⟨_, answers_of s rfl hc rfl act, fun j n => by rw [mapSpoke_at, if_neg n], rfl, fun h => absurd h isolated,
      fun h => absurd h isolated, fun h => absurd h isolated, fun _ => ⟨mapSpoke_here t i _, rfl⟩⟩

theorem retrain_and_rearm : Claims.RetrainAndRearm := by
  intro tag b i s t hb
  refine ⟨fun hc => ?_, fun hc => ⟨fun set => ?_, fun clear => ?_⟩⟩
  · obtain ⟨record, link, quals, others, channels⟩ := goDark_leaves t i
    exact ⟨t.goDark i, answers_of s rfl hc rfl (spokeRetrain_goDark hb), record, link, quals, others,
      channels _ (by decide) (by decide), goDark_duration t i, (retrain_wide t i).self⟩
  · exact answers_of s rfl hc rfl ((spokeRearm_eq hb).trans (if_pos set))
  · exact answers_of s rfl hc rfl ((spokeRearm_eq hb).trans (if_neg (by rw [clear]; decide)))

/-- Settles O56. -/
theorem restoreRetrainRearm : Obligations.RestoreRetrainRearm := ⟨restore_clears_isolate_hold, retrain_and_rearm⟩

/-! ## Turns of TRAINING and of polling (R30, R32, R40) -/

/-- The turn of a raise of training frames that is due. -/
theorem trainTurn_due {s : State} {i : SpokeId} (h : s.due.train[i] = true) :
    s.trainTurn i = { s with due := { s.due with train := s.due.train.set i false } }.trainRaise i := if_pos h

theorem hello_request_repeats : Claims.HelloRequestRepeats := by
  intro i s due training short
  let u : State := { s with due := { s.due with train := s.due.train.set i false } }
  have turn : s.helloRepeat i = u.trainRaise i := (if_pos short).trans (trainTurn_due due)
  have raises : u.trainRaise i = if (s.spokes[i].elapsed + 1) % 10 = 0
      then (u.mapSpoke i fun r => { r with elapsed := s.spokes[i].elapsed + 1 }).mapLink i (·.request .hello)
      else u.mapSpoke i fun r => { r with elapsed := s.spokes[i].elapsed + 1 } := by
    unfold State.trainRaise
    dsimp only
    rw [if_neg (not_not_intro training), if_neg (Nat.not_le.mpr short)]
  have counted : update s.spokes i (fun r => { r with elapsed := s.spokes[i].elapsed + 1 }) =
      update s.spokes i fun r => { r with elapsed := r.elapsed + 1 } := rfl
  refine ⟨_, congrArg Host.Outcome.next (turn.trans raises), ?_⟩
  by_cases ten : (s.spokes[i].elapsed + 1) % 10 = 0
  · rw [if_pos ten]
    refine ⟨rfl, counted, fun _ => ?_, fun h => absurd ten h, fun j n => ?_⟩
    · rw [mapLink_here]
      exact mem_request _ _
    · rw [mapLink_links, update_other _ _ n]
      rfl
  · rw [if_neg ten]
    exact ⟨rfl, counted, fun h => absurd h ten, fun _ => rfl, fun _ _ => rfl⟩

theorem endTraining_no_hello (s : State) (i : SpokeId) : Request.hello ∉ (s.endTraining i).links[i].requests := by
  rw [endTraining_links, update_same]
  simp

/-- The training limit at a spoke in TRAINING. -/
theorem trainingLimit_leaves (s : State) (i : SpokeId) :
    (s.trainingLimit i).spokes[i].state = .isolated ∧
    (s.trainingLimit i).spokes[i].hold =
      (if s.spokes[i].hold.isolates then s.spokes[i].hold else .isolate .noHello) ∧
    (s.trainingLimit i).spokes[i].elapsed = 0 ∧ (s.trainingLimit i).spokes[i].nextPoll = 1 ∧
    (s.trainingLimit i).spokes[i].outstanding = false ∧
    (s.trainingLimit i).spokes[i].knownClass = s.spokes[i].knownClass ∧
    Request.hello ∉ (s.trainingLimit i).links[i].requests ∧
    ∀ j : SpokeId, j ≠ i → (s.trainingLimit i).spokes[j] = s.spokes[j] := by
  have link : (s.trainingLimit i).links = (s.endTraining i).links := isolate_links _ i _
  have here : (s.trainingLimit i).spokes[i] = { ((s.endTraining i).isolate i .noHello).spokes[i] with state := .isolated } :=
    mapSpoke_here _ i _
  rw [here, isolate_here, endTraining_here, link]
  dsimp only
  refine ⟨rfl, ?_, ?_, ?_, ?_, ?_, endTraining_no_hello s i, fun j n => ?_⟩
  iterate 5 split <;> rfl
  unfold State.trainingLimit
  rw [mapSpoke_at, if_neg n, (isolate_only _ i _ j n).1, (endTraining_only s i j n).1]

theorem training_limit_isolates : Claims.TrainingLimitIsolates := by
  intro i s due training long
  let u : State := { s with due := { s.due with train := s.due.train.set i false } }
  have turn : s.limitTurn i = u.trainingLimit i := by
    have raises : u.trainRaise i = u.trainingLimit i := by
      unfold State.trainRaise
      dsimp only
      rw [if_neg (not_not_intro training), if_pos long]
    exact (if_neg (Nat.not_lt.mpr long)).trans ((trainTurn_due due).trans raises)
  obtain ⟨state, hold, elapsed, poll, outstanding, known, requests, others⟩ := trainingLimit_leaves u i
  refine ⟨_, congrArg Host.Outcome.next turn, state, hold, elapsed, poll, outstanding, known, requests, fun held => ?_,
    fun free on => ?_, others, ?_⟩
  · have stays : (u.endTraining i).isolate i .noHello = u.endTraining i :=
      isolate_held _ i _ (by rw [endTraining_here]; exact held)
    unfold State.trainingLimit
    rw [stays]
    rfl
  · have raised := isolate_raises (u.endTraining i) i .noHello (by rw [endTraining_here]; exact free)
    show ∃ e ∈ ((u.endTraining i).isolate i .noHello).channels[chIsolation].list, _
    rw [raised, ← raise_at]
    exact raise_mem _ _ _ _ on
  · obtain ⟨v, l, c, d, frame⟩ := trainingLimit_frame u i training
    rw [frame]

theorem poll_falls_due : Claims.PollFallsDue := by
  intro i s due
  refine ⟨_, congrArg Host.Outcome.next (if_pos due), rfl, rfl, ?_, fun j n => ?_⟩
  · rw [mapLink_here]
    exact mem_request _ _
  · rw [mapLink_links, update_other _ _ n]
    rfl

/-- Settles O46. -/
theorem trainingAndPolls : Obligations.TrainingAndPolls :=
  ⟨hello_request_repeats, training_limit_isolates, poll_falls_due⟩

end Sys2Proof.Machine
end

section
/-! SUPPORT. What arrives on a spoke's link: damaged sample groups, the bytes of reports, and the reports as they are read
(R22, R23, R34, R35, R117, R119, R174, R175). -/

namespace Sys2Proof.Machine

/-! ## A qualification (R122, R123) -/

/-- Only what the qualification reads of the first state matters: channels, settings and records. -/
theorem Qualified.of_same {s u t : State} {i : SpokeId} {k : FaultKind} {d : Detail} (h : Qualified u t i k d)
    (channels : u.channels = s.channels) (settings : u.settings = s.settings) (spokes : u.spokes = s.spokes) :
    Qualified s t i k d := by
  unfold Qualified State.settingsOf at *
  rw [channels, settings, spokes] at h
  exact h

theorem qualify_plain {u : State} (i : SpokeId) {k : FaultKind} (d : Detail) (h : (u.settingsOf k).isolate = false) :
    u.qualify i k d = u.raise (kindChannel k) (some i.val) d := if_neg (by rw [h]; decide)

theorem qualify_isolating {u : State} (i : SpokeId) {k : FaultKind} (d : Detail) (h : (u.settingsOf k).isolate = true) :
    u.qualify i k d = (u.raise (kindChannel k) (some i.val) d).isolate i (.fault k) := if_pos h

theorem stateWhenIsolated_fault (k : FaultKind) (st : SpokeState) :
    stateWhenIsolated (.fault k) st = if st = .live ∨ st = .quiet then .isolated else st := by
  cases st <;> rfl

theorem kindChannel_ne_isolation (k : FaultKind) : chIsolation ≠ kindChannel k := by
  cases k <;> decide

theorem qualify_qualified (u : State) (i : SpokeId) (k : FaultKind) (d : Detail) : Qualified u (u.qualify i k d) i k d := by
  refine ⟨fun on => qualify_raises u i k d on, fun h => ?_, fun acts free => ⟨?_, fun on => ?_⟩⟩
  · rcases acts : (u.settingsOf k).isolate with _ | _
    · rw [qualify_plain i d acts]
      rfl
    · rw [qualify_isolating i d acts]
      have held : (u.raise (kindChannel k) (some i.val) d).spokes[i].hold.isolates = true :=
        h.resolve_left (by rw [acts]; decide)
      rw [isolate_held _ i _ held]
      rfl
  · rw [qualify_isolating i d acts, isolate_spokes]
    refine (if_neg (by rw [raise_spokes, free]; decide)).trans ?_
    rw [raise_spokes]
    congr 1
    funext r
    rw [stateWhenIsolated_fault]
  · rw [qualify_isolating i d acts]
    have raised := isolate_raises (u.raise (kindChannel k) (some i.val) d) i (.fault k) free
    rw [← raise_at] at raised
    show ∃ e ∈ (State.isolate i (.fault k) _).channels[chIsolation].list, _
    rw [raised]
    refine raise_mem _ _ _ _ ?_
    rw [raise_other _ _ _ _ _ (kindChannel_ne_isolation k)]
    exact on

theorem qualify_links (u : State) (i : SpokeId) (k : FaultKind) (d : Detail) : (u.qualify i k d).links = u.links :=
  (qualify_spokes_links u i k d).1

/-! ## FRAME_ERRORS events, case by case (R117, R119) -/

section FrameErrors

variable {s : State} {i : SpokeId}

theorem frameErrors_immediate (lit : s.spokes[i].state ≠ .dark) (mode : (s.settingsOf .frameErrors).mode = .immediate) :
    s.frameErrors i = s.qualify i .frameErrors (.errors 1) := by
  unfold State.frameErrors
  dsimp only
  rw [if_neg lit, mode]

theorem frameErrors_opens (lit : s.spokes[i].state ≠ .dark) (mode : (s.settingsOf .frameErrors).mode = .count)
    (idle : (s.qual i .frameErrors).state = .idle) : s.frameErrors i =
      if (s.settingsOf .frameErrors).n = 1 then
        (s.setQual i .frameErrors (openWindow (s.settingsOf .frameErrors) (s.qual i .frameErrors))).qualify i .frameErrors
          (.errors 1)
      else s.setQual i .frameErrors (openWindow (s.settingsOf .frameErrors) (s.qual i .frameErrors)) := by
  unfold State.frameErrors
  dsimp only
  rw [if_neg lit, mode, idle]

theorem frameErrors_counts (lit : s.spokes[i].state ≠ .dark) (mode : (s.settingsOf .frameErrors).mode = .count)
    (armed : (s.qual i .frameErrors).state = .armed) : s.frameErrors i =
      if (s.qual i .frameErrors).count + 1 = (s.settingsOf .frameErrors).n then
        (s.setQual i .frameErrors { s.qual i .frameErrors with
          state := .qualified, count := (s.qual i .frameErrors).count + 1 }).qualify i .frameErrors
            (.errors ((s.qual i .frameErrors).count + 1))
      else s.setQual i .frameErrors { s.qual i .frameErrors with count := (s.qual i .frameErrors).count + 1 } := by
  unfold State.frameErrors
  dsimp only
  rw [if_neg lit, mode, armed]

theorem frameErrors_absorbed (lit : s.spokes[i].state ≠ .dark) (mode : (s.settingsOf .frameErrors).mode = .count)
    (qualified : (s.qual i .frameErrors).state = .qualified) : s.frameErrors i = s := by
  unfold State.frameErrors
  dsimp only
  rw [if_neg lit, mode, qualified]

end FrameErrors

theorem frameErrors_links (s : State) (i : SpokeId) : (s.frameErrors i).links = s.links := by
  unfold State.frameErrors
  dsimp only
  split
  · rfl
  split
  · exact qualify_links s i _ _
  · split
    · split
      · exact qualify_links _ i _ _
      · rfl
    · split
      · exact qualify_links _ i _ _
      · rfl
    · rfl
    · rfl
  · rfl
  · rfl

theorem qualify_qual (u : State) (i : SpokeId) (k : FaultKind) (d : Detail) : (u.qualify i k d).qual i k = u.qual i k := by
  unfold State.qual
  rw [qualify_quals]

/-! ## Damaged sample groups (R23) -/

/-- The link with a damaged group's zero samples begun. -/
def State.damages (i : SpokeId) (n : Nat) (s : State) : State := s.mapLink i fun l => { l with damaged := l.damaged + n }

theorem groupDamaged_damages {s : State} {i : SpokeId} (n : Nat) (h : s.links[i].locked = true) :
    s.groupDamaged i n = (s.damages i n).frameErrors i := if_pos h

theorem groupDamaged_damaged {s : State} {i : SpokeId} (n : Nat) (h : s.links[i].locked = true) :
    (s.groupDamaged i n).links[i].damaged = s.links[i].damaged + n := by
  rw [groupDamaged_damages n h, frameErrors_links]
  show (s.mapLink i _).links[i].damaged = _
  rw [mapLink_here]

theorem damaged_group_counts : Claims.DamagedGroupCounts := by
  intro i n s locked lit mode many
  have event := groupDamaged_damages n locked
  refine ⟨s.groupDamaged i n, rfl, groupDamaged_damaged n locked, (groupDamaged_wide s i n).self, fun idle => ?_,
    fun armed => ?_, fun qualified => ?_⟩
  · have opens := frameErrors_opens (s := s.damages i n) lit mode idle
    rw [if_neg (by show ¬(s.settingsOf .frameErrors).n = 1; omega)] at opens
    rw [event, opens, setQual_qual]
    exact ⟨if_neg (by show ¬(s.settingsOf .frameErrors).n = 1; omega), rfl, rfl⟩
  · have counts := frameErrors_counts (s := s.damages i n) lit mode armed
    have same : (s.damages i n).qual i .frameErrors = s.qual i .frameErrors := rfl
    have settings : (s.damages i n).settingsOf .frameErrors = s.settingsOf .frameErrors := rfl
    rw [same, settings] at counts
    rw [event, counts]
    split
    · next last => rw [qualify_qual, setQual_qual]; exact ⟨rfl, fun _ => last, fun _ => rfl⟩
    · next more =>
      rw [setQual_qual]
      exact ⟨rfl, fun h => absurd (armed.symm.trans h) (by decide), fun h => absurd h more⟩
  · rw [event, frameErrors_absorbed (s := s.damages i n) lit mode qualified]
    rfl

theorem damaged_group_qualifies : Claims.DamagedGroupQualifies := by
  intro i n s locked lit
  have event := groupDamaged_damages n locked
  refine ⟨fun mode => ⟨_, rfl, ?_, groupDamaged_damaged n locked, ?_⟩, fun mode one idle => ⟨_, rfl, ?_⟩,
    fun mode armed last => ⟨_, rfl, ?_⟩⟩
  · rw [event, frameErrors_immediate (s := s.damages i n) lit mode, qualify_quals]
    rfl
  · rw [event, frameErrors_immediate (s := s.damages i n) lit mode]
    exact (qualify_qualified _ i _ _).of_same rfl rfl rfl
  · have opens := frameErrors_opens (s := s.damages i n) lit mode idle
    rw [if_pos (show ((s.damages i n).settingsOf .frameErrors).n = 1 from one)] at opens
    rw [event, opens, qualify_qual, setQual_qual]
    exact ⟨if_pos one, rfl, rfl, (qualify_qualified _ i _ _).of_same rfl rfl rfl⟩
  · have counts := frameErrors_counts (s := s.damages i n) lit mode armed
    have same : (s.damages i n).qual i .frameErrors = s.qual i .frameErrors := rfl
    have settings : (s.damages i n).settingsOf .frameErrors = s.settingsOf .frameErrors := rfl
    rw [same, settings, if_pos last, last] at counts
    rw [event, counts, qualify_qual, setQual_qual]
    exact ⟨rfl, (qualify_qualified _ i _ _).of_same rfl rfl rfl⟩

/-! ## Requests sent and report bytes (R22, R34) -/

theorem request_sent_oldest_first : Claims.RequestSentOldestFirst := by
  intro i s q rest locked waits
  have sends : s.links[i].send = { s.links[i] with requests := rest, sending := some q } := by
    unfold Link.send
    rw [if_pos locked, waits]
  have links : update s.links i Link.send = update s.links i fun _ => { s.links[i] with requests := rest, sending := some q } :=
    congrArg (s.links.set i) sends
  exact congrArg (fun v => Host.Outcome.next { s with links := v }) links

theorem lead_byte_begins_assembly : Claims.LeadByteBeginsAssembly := by
  intro i s locked
  refine ⟨fun none => ?_, fun lead begun => ?_, fun lead len rest begun => ⟨fun more => ?_, fun last => ?_⟩⟩
  · exact congrArg Host.Outcome.next (reportByte_lead s i locked (by rw [none]; rfl))
  · have ends : s.reportByte i reportLead = s.completeReport i (.damaged .unreadable) :=
      (reportByte_length s i reportLead lead locked begun).trans (if_neg (by decide))
    exact ⟨.damaged .unreadable, _, rfl, congrArg Host.Outcome.next ends, completeReport_enters s i _⟩
  · exact congrArg Host.Outcome.next
      ((reportByte_more s i reportLead lead len rest locked begun).trans (if_neg (by omega)))
  · have ends : s.reportByte i reportLead = s.completeReport i (readReport (lead :: len :: rest ++ [reportLead])) :=
      (reportByte_more s i reportLead lead len rest locked begun).trans (if_pos last)
    exact ⟨_, congrArg Host.Outcome.next ends, completeReport_enters s i _⟩

/-- Settles O44. -/
theorem linkTraffic : Obligations.LinkTraffic :=
  ⟨damaged_group_counts, damaged_group_qualifies, request_sent_oldest_first, lead_byte_begins_assembly⟩

/-! ## Reports completed and read (R34, R35, R174, R175) -/

theorem report_queued_or_discarded : Claims.ReportQueuedOrDiscarded := by
  intro i s bytes len rest locked some' whole low high all
  exact ⟨_, congrArg Host.Outcome.next (reportBytes_complete bytes s i len rest locked some' whole low high all),
    completeReport_enters s i _⟩

/-- A report closed by its check is read by its kind and body. -/
theorem readReport_withCheck (lead len kind : Byte) (body : List Byte) :
    readReport (withCheck (lead :: len :: kind :: body)) = (reportBody kind body).getD (.damaged (reportKindOf kind)) := by
  have passes := checkPasses_withCheck (lead :: len :: kind :: body)
  have laid (close : List Byte) (two : close.length = 2)
      (h : checkPasses (lead :: len :: kind :: (body ++ close)) = true) :
      readReport (lead :: len :: kind :: (body ++ close)) =
        (reportBody kind body).getD (.damaged (reportKindOf kind)) := by
    unfold readReport
    dsimp only
    rw [if_pos h, List.length_append, two, Nat.add_sub_cancel, List.take_left]
  exact laid _ (halfBytes_length _) passes

theorem below_val {n : Nat} (hn : n ≤ 256) (k : Fin n) : below n (BitVec.ofNat 8 k.val) = some k := by
  have small : (BitVec.ofNat 8 k.val).toNat = k.val := by
    have := k.isLt
    simp
    omega
  unfold below
  rw [dif_pos (by rw [small]; exact k.isLt)]
  exact congrArg some (Fin.ext small)

theorem reports_read_as_written : Claims.ReportsReadAsWritten := by
  refine ⟨fun cls n3 n2 n1 n0 => ?_, fun temp o1 o0 => ⟨?_, ?_⟩, fun x hx => ⟨?_, ?_⟩⟩
  · rw [readReport_withCheck]
    show ((below 8 (BitVec.ofNat 8 cls.val)).map Report.hello).getD _ = _
    rw [below_val (by decide)]
    rfl
  · rw [readReport_withCheck]
    rfl
  · rw [readReport_withCheck]
    rfl
  all_goals
    rw [readReport_withCheck]
    revert x
    decide

theorem readReport_check_fails {bytes : List Byte} (h : checkPasses bytes = false) :
    (readReport bytes).isDamaged = true := by
  unfold readReport
  split
  · rw [if_neg (by rw [h]; decide)]
    rfl
  · rfl

/-- A report whose body no kind reads is damaged, with or without its check. -/
theorem readReport_unread {lead len kind : Byte} {rest : List Byte}
    (h : reportBody kind (rest.take (rest.length - 2)) = none) : (readReport (lead :: len :: kind :: rest)).isDamaged = true := by
  unfold readReport
  dsimp only
  split
  · rw [h]
    rfl
  · rfl

/-- A kind's body has its own length. -/
theorem reportBody_length {kind : Byte} {body : List Byte} {rep : Report} (h : reportBody kind body = some rep) :
    (kind = 0x01#8 ∧ body.length = 5) ∨ (kind = 0x02#8 ∧ body.length = 4) ∨
      ((kind = 0x03#8 ∨ kind = 0x04#8) ∧ body.length = 1) := by
  have byte {n : Nat} (hn : n < 256) (e : kind.toNat = n) : kind = BitVec.ofNat 8 n :=
    BitVec.eq_of_toNat_eq (by rw [e]; simp; omega)
  unfold reportBody at h
  split at h
  · next e => exact .inl ⟨byte (by decide) e, rfl⟩
  · next e => exact .inr (.inl ⟨byte (by decide) e, rfl⟩)
  · next e => exact .inr (.inr ⟨.inl (byte (by decide) e), rfl⟩)
  · next e => exact .inr (.inr ⟨.inr (byte (by decide) e), rfl⟩)
  · cases h

theorem damage_marked : Claims.DamageMarked := by
  refine ⟨fun i s bytes len locked some' whole out => ?_, fun bytes fails => readReport_check_fails fails,
    fun len kind rest wrong => readReport_unread ?_, fun b n3 n2 n1 n0 => ⟨fun high => ?_, fun out => ?_, fun high => ?_⟩⟩
  · exact ⟨.damaged .unreadable, _, rfl,
      congrArg Host.Outcome.next (reportBytes_short bytes s i len locked some' whole out), completeReport_enters s i _⟩
  · rw [Option.eq_none_iff_forall_ne_some]
    intro rep h
    have read := reportBody_length h
    rw [List.length_take] at read
    rcases read with ⟨rfl, n⟩ | ⟨rfl, n⟩ | ⟨rfl | rfl, n⟩ <;> simp at wrong <;> omega
  · have unread : below 8 b = none := below_eq_none high
    rw [readReport_withCheck]
    show (((below 8 b).map Report.hello).getD _).isDamaged = true
    rw [unread]
    rfl
  · have unread : faultCodeOf b = none := by
      unfold faultCodeOf
      repeat rw [if_neg (by rintro rfl; simp at out)]
    rw [readReport_withCheck, readReport_withCheck]
    show (((faultCodeOf b).map Report.fault).getD _).isDamaged = true ∧
      (((faultCodeOf b).map Report.clear).getD _).isDamaged = true
    rw [unread]
    exact ⟨rfl, rfl⟩
  · have unread : supplyOf b = none := by
      unfold supplyOf
      repeat rw [if_neg (by rintro rfl; simp at high)]
    have body : reportBody 0x02 [n2, n1, n0, b] = none := by
      show (supplyOf b).map _ = none
      rw [unread]
      rfl
    rw [readReport_withCheck, body]
    rfl

/-- Settles O45. -/
theorem reportsQueuedAndRead : Obligations.ReportsQueuedAndRead :=
  ⟨report_queued_or_discarded, reports_read_as_written, damage_marked⟩

end Sys2Proof.Machine
end

section
/-! SUPPORT. The report taker and the HELLO it takes (R31, R36 to R39), and what the Cutover Engine does when it is told of a
spoke (R28, R85 to R88). -/

namespace Sys2Proof.Machine

/-! ## The taker's search (R36) -/

theorem searchOrder_eq (p : SpokeId) : searchOrder p = allSpokes.map fun k => p + 1 + k := by
  unfold searchOrder
  congr 1
  funext k
  ext
  simp [Fin.val_add]

/-- The first place of a search over all spokes at which a test holds. -/
theorem find_allSpokes {p : SpokeId → Bool} {k : SpokeId} (h : p k = true) (before : ∀ j : SpokeId, j < k → p j = false) :
    allSpokes.find? p = some k := by
  rw [List.find?_eq_some_iff_getElem]
  refine ⟨h, k.val, by simp [allSpokes], by simp [allSpokes], fun j hj => ?_⟩
  simpa [allSpokes] using before ⟨j, by omega⟩ hj

theorem nextQueued_of_first {s : State} {k : SpokeId} (h : s.spokes[s.takerPos + 1 + k].queue ≠ [])
    (before : ∀ j : SpokeId, j < k → s.spokes[s.takerPos + 1 + j].queue = []) :
    s.nextQueued = some (s.takerPos + 1 + k) := by
  unfold State.nextQueued
  rw [searchOrder_eq, List.find?_map, find_allSpokes (k := k)]
  · rfl
  · simpa using h
  · intro j hj
    simpa using before j hj

theorem takeFrom_spent {s : State} (found : Option SpokeId) (h : s.due.reports = 0) : s.takeFrom found = s := if_pos h

theorem takeFrom_none {s : State} (h : s.due.reports ≠ 0) :
    s.takeFrom none = { s with due := { s.due with reports := 0 } } := if_neg h

/-- The state in which a report has left its queue. -/
def State.taken (s : State) (i : SpokeId) (rest : List Report) : State :=
  { s with
    takerPos := i, spokes := update s.spokes i (fun r => { r with queue := rest })
    due := { s.due with reports := s.due.reports - 1, waiting := update s.due.waiting i (· - 1) } }

theorem takeFrom_some {s : State} {i : SpokeId} {rep : Report} {rest : List Report} (h : 0 < s.due.reports)
    (queue : s.spokes[i].queue = rep :: rest) : s.takeFrom (some i) = (s.taken i rest).actOnReport i rep := by
  unfold State.takeFrom
  rw [if_neg (Nat.ne_of_gt h)]
  dsimp only
  rw [queue]
  rfl

theorem reportTurn_some {s : State} {i : SpokeId} {rep : Report} {rest : List Report} (h : 0 < s.due.reports)
    (found : s.nextQueued = some i) (queue : s.spokes[i].queue = rep :: rest) :
    exec .reportTake s = .next ((s.taken i rest).actOnReport i rep) := by
  show Host.Outcome.next (s.takeFrom s.nextQueued) = _
  rw [found, takeFrom_some h queue]

theorem taker_searches : Claims.TakerSearches := by
  refine fun s => ⟨fun spent => ?_, fun empty => ?_, fun k h before => nextQueued_of_first h before⟩
  · exact congrArg Host.Outcome.next (takeFrom_spent _ spent)
  · show Host.Outcome.next (s.takeFrom s.nextQueued) = _
    rw [(nextQueued_none s).mpr empty]
    by_cases spent : s.due.reports = 0
    · have same : { s.due with reports := 0 } = s.due := by rw [← spent]
      rw [takeFrom_spent none spent, same]
    · rw [takeFrom_none spent]

/-! ## What a taken report does (R36 to R39) -/

theorem taken_state (s : State) (i : SpokeId) (rest : List Report) : (s.taken i rest).spokes[i].state = s.spokes[i].state := by
  show (update s.spokes i _)[i].state = _
  rw [update_same]

theorem actOnReport_training {u : State} {i : SpokeId} (cls : NodeClass) (h : u.spokes[i].state = .training) :
    u.actOnReport i (.hello cls) = u.helloInTraining i cls := by
  unfold State.actOnReport
  rw [h]

theorem actOnReport_in_place {u : State} {i : SpokeId} (cls : NodeClass) (nt : u.spokes[i].state ≠ .training)
    (nd : u.spokes[i].state ≠ .dark) : u.actOnReport i (.hello cls) = u.helloTaken i cls := by
  unfold State.actOnReport
  rcases h : u.spokes[i].state
  case dark => exact absurd h nd
  case training => exact absurd h nt
  all_goals rfl

theorem taken_report_acts : Claims.TakenReportActs := by
  intro s i rep rest left found queue u
  refine ⟨_, reportTurn_some left found queue, ?_, ?_, ?_, ?_, ?_, ?_⟩
  · rintro temp opt sup rfl
    rfl
  · rintro c rfl
    rfl
  · rintro c rfl
    rfl
  · rintro cls rfl training
    exact actOnReport_training cls ((taken_state s i rest).trans training)
  · rintro cls rfl nt nd
    exact actOnReport_in_place cls (by rw [taken_state]; exact nt) (by rw [taken_state]; exact nd)
  · rintro k rfl
    rfl

/-- Settles O16. -/
theorem reportTakenActs : Obligations.ReportTakenActs := ⟨taker_searches, taken_report_acts⟩

/-! ## A HELLO taken in TRAINING (R31) -/

section HelloInTraining

variable {s : State} {i : SpokeId} {cls : NodeClass}

theorem helloInTraining_absent (h : s.store.nodeClass cls = none) : s.helloInTraining i cls =
    ((s.endTraining i).isolate i .classUnknown).mapSpoke i fun r => { r with state := .isolated } := by
  unfold State.helloInTraining
  dsimp only
  rw [show (s.endTraining i).store.nodeClass cls = none from h]

/-- The class recorded once TRAINING has ended. -/
def State.classRecorded (s : State) (i : SpokeId) (cls : NodeClass) : State :=
  (s.endTraining i).mapSpoke i fun r => { r with knownClass := some cls }

theorem classRecorded_here : (s.classRecorded i cls).spokes[i] =
    { s.spokes[i] with elapsed := 0, nextPoll := 1, outstanding := false, knownClass := some cls } := by
  unfold State.classRecorded
  rw [mapSpoke_here, endTraining_here]

theorem classRecorded_frame (s : State) (i : SpokeId) (cls : NodeClass) :
    ∃ v l d, s.classRecorded i cls = { s with spokes := v, links := l, due := d } := ⟨_, _, _, rfl⟩

theorem helloInTraining_present {r : ClassRec} (h : s.store.nodeClass cls = some r) : s.helloInTraining i cls =
    match s.spokes[i].hold with
    | .isolate _ => (s.classRecorded i cls).mapSpoke i fun r => { r with state := .isolated }
    | .quiet => (s.classRecorded i cls).mapSpoke i fun r => { r with state := .quiet }
    | .none => ((s.classRecorded i cls).raise chLinkUp (some i.val) .none).enterLive i := by
  have hold : (s.classRecorded i cls).spokes[i].hold = s.spokes[i].hold := by rw [classRecorded_here]
  unfold State.helloInTraining
  dsimp only
  rw [show (s.endTraining i).store.nodeClass cls = some r from h]
  show (match (s.classRecorded i cls).spokes[i].hold with
    | .isolate _ => (s.classRecorded i cls).mapSpoke i fun r => { r with state := .isolated }
    | .quiet => (s.classRecorded i cls).mapSpoke i fun r => { r with state := .quiet }
    | .none => ((s.classRecorded i cls).raise chLinkUp (some i.val) .none).enterLive i) = _
  rw [hold]

end HelloInTraining

theorem mapSpoke_other_spoke (s : State) {i j : SpokeId} (f : SpokeRec → SpokeRec) (n : j ≠ i) :
    (s.mapSpoke i f).spokes[j] = s.spokes[j] := by
  rw [mapSpoke_at, if_neg n]

/-- What a HELLO in TRAINING leaves as the end of TRAINING has it: the other spokes, the links and the polling items. -/
theorem helloInTraining_leaves (s : State) (i : SpokeId) (cls : NodeClass) : let t := s.helloInTraining i cls
    (∀ j : SpokeId, j ≠ i → t.spokes[j] = s.spokes[j]) ∧ t.links = (s.endTraining i).links ∧
    t.spokes[i].elapsed = 0 ∧ t.spokes[i].nextPoll = 1 ∧ t.spokes[i].outstanding = false := by
  have ended (j : SpokeId) (n : j ≠ i) := (endTraining_only s i j n).1
  rcases found : s.store.nodeClass cls with _ | r
  · rw [helloInTraining_absent found]
    refine ⟨fun j n => ?_, isolate_links _ i _, ?_⟩
    · rw [mapSpoke_other_spoke _ _ n, (isolate_only _ i _ j n).1, ended j n]
    · rw [mapSpoke_here, isolate_here, endTraining_here]
      split <;> exact ⟨rfl, rfl, rfl⟩
  · have recorded (j : SpokeId) (n : j ≠ i) : (s.classRecorded i cls).spokes[j] = s.spokes[j] :=
      (mapSpoke_other_spoke _ _ n).trans (ended j n)
    rw [helloInTraining_present found]
    cases s.spokes[i].hold with
    | isolate reason =>
      refine ⟨fun j n => (mapSpoke_other_spoke _ _ n).trans (recorded j n), rfl, ?_⟩
      rw [mapSpoke_here, classRecorded_here]
      exact ⟨rfl, rfl, rfl⟩
    | quiet =>
      refine ⟨fun j n => (mapSpoke_other_spoke _ _ n).trans (recorded j n), rfl, ?_⟩
      rw [mapSpoke_here, classRecorded_here]
      exact ⟨rfl, rfl, rfl⟩
    | none =>
      have here := classRecorded_here (s := s) (i := i) (cls := cls)
      refine ⟨fun j n => (enterLive_other_spoke _ n).trans (recorded j n), enterLive_links _ i, ?_⟩
      rcases class_matches_or_differs ((s.classRecorded i cls).raise chLinkUp (some i.val) .none) i with pass | ⟨c, hc, hk⟩
      · rw [enterLive_passes _ i pass, mapSpoke_here, raise_spokes, here]
        exact ⟨rfl, rfl, rfl⟩
      · rw [enterLive_fails_spokes _ i c hc hk, update_same, raise_spokes, here]
        exact ⟨rfl, rfl, rfl⟩

/-- A HELLO of an absent class in TRAINING (R26, R31). -/
theorem helloInTraining_unknown {s : State} {i : SpokeId} {cls : NodeClass} (training : s.spokes[i].state = .training)
    (absent : s.store.nodeClass cls = none) : let t := s.helloInTraining i cls
    t.spokes[i].state = .isolated ∧ t.spokes[i].knownClass = s.spokes[i].knownClass ∧
      (s.spokes[i].hold.isolates = true → t.spokes[i].hold = s.spokes[i].hold ∧ t.channels = s.channels) ∧
      (s.spokes[i].hold.isolates = false → t.spokes[i].hold = .isolate .classUnknown ∧
        t.channels = (s.raise 13 (some i.val) (.isolation .classUnknown)).channels) := by
  rw [helloInTraining_absent absent]
  refine ⟨by rw [mapSpoke_here], ?_, fun held => ⟨?_, ?_⟩, fun free => ⟨?_, ?_⟩⟩
  · rw [mapSpoke_here, isolate_here, endTraining_here]
    split <;> rfl
  · rw [mapSpoke_here, isolate_here, if_pos (by rw [endTraining_here]; exact held), endTraining_here]
  · rw [isolate_held _ i _ (by rw [endTraining_here]; exact held)]
    rfl
  · rw [mapSpoke_here, isolate_here, if_neg (by rw [endTraining_here, free]; decide)]
  · rw [isolate_of_not_live _ (by rw [endTraining_here]; exact free)
      (by rw [endTraining_state, training]; decide)]
    rfl

/-! ## Entry to LIVE, from any state whose class is recorded (R27, R29, R31) -/

section EnterLive

variable {v : State} {i : SpokeId}

theorem enterLive_knownClass : (v.enterLive i).spokes[i].knownClass = v.spokes[i].knownClass := by
  rcases class_matches_or_differs v i with pass | ⟨c, hc, hk⟩
  · rw [enterLive_passes v i pass, mapSpoke_here]
  · rw [enterLive_fails_spokes v i c hc hk, update_same]

theorem enterLive_of_match (h : v.expectedClass i = none ∨ v.expectedClass i = v.spokes[i].knownClass) :
    (v.enterLive i).spokes[i].state = .live ∧ (v.enterLive i).spokes[i].hold = .none ∧
      (v.enterLive i).spokes[i].settle = v.restoreSettle ∧ (v.enterLive i).channels = v.channels := by
  rw [enterLive_passes v i h, mapSpoke_here]
  exact ⟨rfl, rfl, rfl, rfl⟩

theorem enterLive_of_mismatch {c : NodeClass} (h : v.expectedClass i = some c) (hk : v.spokes[i].knownClass ≠ some c) :
    (v.enterLive i).spokes[i].state = .isolated ∧ (v.enterLive i).spokes[i].hold = .isolate .classMismatch ∧
      (v.enterLive i).spokes[i].settle = 0 := by
  rw [enterLive_fails_spokes v i c h hk, update_same]
  exact ⟨rfl, rfl, rfl⟩

end EnterLive

/-- Entry to LIVE out of TRAINING, with its class check (R29, R31). -/
theorem helloInTraining_live {s t : State} {i : SpokeId} {cls : NodeClass}
    (ht : ((s.classRecorded i cls).raise chLinkUp (some i.val) .none).enterLive i = t) :
    t.spokes[i].knownClass = some cls ∧ t.channels[chLinkUp] = (s.raise chLinkUp (some i.val) .none).channels[chLinkUp] ∧
    ((s.expectedClass i = none ∨ s.expectedClass i = some cls) →
      t.spokes[i].state = .live ∧ t.spokes[i].hold = .none ∧ t.spokes[i].settle = s.restoreSettle ∧
      t.channels = (s.raise chLinkUp (some i.val) .none).channels) ∧
    ((∃ c, s.expectedClass i = some c ∧ c ≠ cls) →
      t.spokes[i].state = .isolated ∧ t.spokes[i].hold = .isolate .classMismatch ∧ t.spokes[i].settle = 0 ∧
      t.channels[(13 : ChannelId)] = (s.raise 13 (some i.val) (.isolation .classMismatch)).channels[(13 : ChannelId)]) := by
  have known := classRecorded_here (s := s) (i := i) (cls := cls)
  obtain ⟨v, l, d, recorded⟩ := classRecorded_frame s i cls
  rw [recorded] at ht known
  subst ht
  have known : v[i].knownClass = some cls := congrArg SpokeRec.knownClass known
  refine ⟨enterLive_knownClass.trans known, ?_, fun h => ?_, fun ⟨c, hc, other⟩ => ?_⟩
  · rw [enterLive_other _ i chLinkUp (by decide) (by decide), raise_at, raise_at]
  · refine enterLive_of_match ?_
    rw [raise_spokes, known]
    exact h
  · have differs : v[i].knownClass ≠ some c := by
      rw [known]
      exact fun e => other (Option.some.inj e).symm
    obtain ⟨state, hold, zero⟩ := enterLive_of_mismatch 
      (v := State.raise chLinkUp (some i.val) .none { s with spokes := v, links := l, due := d }) hc differs
    refine ⟨state, hold, zero, (enterLive_raises
      (State.raise chLinkUp (some i.val) .none { s with spokes := v, links := l, due := d }) i c hc differs).trans ?_⟩
    rw [raise_at, raise_other _ _ _ _ _ (show chIsolation ≠ chLinkUp by decide), raise_frame]
    exact (raise_at s chIsolation _ _).symm

/-- A HELLO of a class that the store holds, in TRAINING (R31). -/
theorem helloInTraining_known {s : State} {i : SpokeId} {cls : NodeClass} {r : ClassRec}
    (present : s.store.nodeClass cls = some r) : let t := s.helloInTraining i cls
    t.spokes[i].knownClass = some cls ∧
      (s.spokes[i].hold.isolates = true → t.spokes[i].state = .isolated ∧ t.spokes[i].hold = s.spokes[i].hold ∧
        t.channels = s.channels) ∧
      (s.spokes[i].hold = .quiet → t.spokes[i].state = .quiet ∧ t.spokes[i].hold = .quiet ∧ t.channels = s.channels) ∧
      (s.spokes[i].hold = .none → s.channels[chLinkUp].enabled = true →
        ∃ e ∈ t.channels[chLinkUp].list, e.source = some i.val ∧ e.detail = .none) ∧
      (s.spokes[i].hold = .none → (s.expectedClass i = none ∨ s.expectedClass i = some cls) →
        t.spokes[i].state = .live ∧ t.spokes[i].hold = .none ∧ t.spokes[i].settle = s.restoreSettle ∧
        t.channels = (s.raise chLinkUp (some i.val) .none).channels) ∧
      (s.spokes[i].hold = .none → (∃ c, s.expectedClass i = some c ∧ c ≠ cls) →
        t.spokes[i].state = .isolated ∧ t.spokes[i].hold = .isolate .classMismatch ∧ t.spokes[i].settle = 0 ∧
        t.channels[chLinkUp] = (s.raise chLinkUp (some i.val) .none).channels[chLinkUp] ∧
        t.channels[(13 : ChannelId)] =
          (s.raise 13 (some i.val) (.isolation .classMismatch)).channels[(13 : ChannelId)]) := by
  have here := classRecorded_here (s := s) (i := i) (cls := cls)
  have channels : (s.classRecorded i cls).channels = s.channels := by
    obtain ⟨v, l, d, recorded⟩ := classRecorded_frame s i cls
    rw [recorded]
  rw [helloInTraining_present present]
  rcases hold : s.spokes[i].hold with _ | _ | reason
  · dsimp only
    generalize ht : State.enterLive i _ = t
    obtain ⟨known, linkUp, passes, fails⟩ := helloInTraining_live ht
    refine ⟨known, nofun, nofun, fun _ on => ?_, fun _ h => passes h, fun _ h => ?_⟩
    · rw [linkUp]
      exact raise_mem s _ _ _ on
    · obtain ⟨state, isolated, settle, raised⟩ := fails h
      exact ⟨state, isolated, settle, linkUp, raised⟩
  · dsimp only
    rw [mapSpoke_here, here]
    exact ⟨rfl, nofun, fun _ => ⟨rfl, hold, channels⟩, nofun, nofun, nofun⟩
  · dsimp only
    rw [mapSpoke_here, here]
    exact ⟨rfl, fun _ => ⟨rfl, hold, channels⟩, nofun, nofun, nofun, nofun⟩

theorem hello_in_training : Claims.HelloInTraining := by
  intro s i cls training t
  obtain ⟨others, links, elapsed, poll, outstanding⟩ := helloInTraining_leaves s i cls
  refine ⟨(helloInTraining_link s i cls).self, fun j n => ⟨others j n, ?_⟩, elapsed, poll, outstanding, ?_,
    fun absent => helloInTraining_unknown training absent, fun r present => helloInTraining_known present⟩
  · show (s.helloInTraining i cls).links[j] = _
    rw [links, endTraining_links, update_other _ _ n]
  · show _ ∉ (s.helloInTraining i cls).links[i].requests
    rw [links]
    exact endTraining_no_hello s i

/-! ## A HELLO taken in LIVE, QUIET or ISOLATED (R37) -/

section HelloTaken

variable {s : State} {i : SpokeId} {cls : NodeClass}

theorem helloTaken_absent (h : s.store.nodeClass cls = none) : s.helloTaken i cls =
    (s.mapSpoke i fun r => { r with knownClass := none }).isolate i .classUnknown := by
  unfold State.helloTaken
  rw [h]

theorem helloTaken_known {r : ClassRec} (h : s.store.nodeClass cls = some r) (known : s.spokes[i].knownClass = some cls) :
    s.helloTaken i cls = if s.spokes[i].state = .live then
      (s.settleStart i s.restoreSettle).mapSpoke i fun r => { r with faults := 0 } else s := by
  unfold State.helloTaken
  rw [h]
  exact if_pos known

theorem helloTaken_other {r : ClassRec} (h : s.store.nodeClass cls = some r) (other : s.spokes[i].knownClass ≠ some cls) :
    s.helloTaken i cls = (s.mapSpoke i fun r => { r with knownClass := some cls }).classCheck i := by
  unfold State.helloTaken
  rw [h]
  exact if_neg other

/-- Two changes of one spoke's record are one change. -/
theorem mapSpoke_mapSpoke (s : State) (i : SpokeId) (f g : SpokeRec → SpokeRec) :
    (s.mapSpoke i f).mapSpoke i g = s.mapSpoke i fun r => g (f r) := by
  refine congrArg (fun v => { s with spokes := v }) (table_ext fun j => ?_)
  rw [mapSpoke_spokes, update_get, update_get, update_get, update_get, if_pos rfl]
  split <;> rfl

/-- A change of a record depends on what it makes of this record. -/
theorem mapSpoke_congr {s : State} {i : SpokeId} {f g : SpokeRec → SpokeRec} (h : f s.spokes[i] = g s.spokes[i]) :
    s.mapSpoke i f = s.mapSpoke i g := by
  refine congrArg (fun v => { s with spokes := v }) (table_ext fun j => ?_)
  rw [update_get, update_get, h]

theorem helloTaken_unknown (lit : s.spokes[i].state ≠ .dark) (training : s.spokes[i].state ≠ .training)
    (free : s.spokes[i].hold.isolates = false) :
    let t := (s.mapSpoke i fun r => { r with knownClass := none }).isolate i .classUnknown
    t.spokes[i] = { s.spokes[i] with
      knownClass := none, state := .isolated, hold := .isolate .classUnknown, settle := 0 } ∧
    t.channels[(13 : ChannelId)] = (s.raise 13 (some i.val) (.isolation .classUnknown)).channels[(13 : ChannelId)] := by
  have free' : (s.mapSpoke i fun r => { r with knownClass := none }).spokes[i].hold.isolates = false := by
    rw [mapSpoke_here]
    exact free
  refine ⟨?_, ?_⟩
  · rw [isolate_here, if_neg (by rw [free']; decide), mapSpoke_here, stateWhenIsolated_eq]
    rcases state : s.spokes[i].state with _ | _ | _ | _ | _
    case dark => exact absurd state lit
    case training => exact absurd state training
    all_goals rfl
  · exact (isolate_raises _ i _ free').trans (raise_at s chIsolation _ _).symm

theorem helloTaken_mismatch (live : s.spokes[i].state = .live) (free : s.spokes[i].hold.isolates = false) {c : NodeClass}
    (hc : s.expectedClass i = some c) (other : c ≠ cls) :
    let t := (s.mapSpoke i fun r => { r with knownClass := some cls }).classCheck i
    t.spokes[i] = { s.spokes[i] with
      knownClass := some cls, state := .isolated, hold := .isolate .classMismatch, settle := 0 } ∧
    t.channels[(13 : ChannelId)] = (s.raise 13 (some i.val) (.isolation .classMismatch)).channels[(13 : ChannelId)] := by
  intro t
  have here : (s.mapSpoke i fun r => { r with knownClass := some cls }).spokes[i] =
      { s.spokes[i] with knownClass := some cls } := mapSpoke_here _ _ _
  have fails : t = (s.mapSpoke i fun r => { r with knownClass := some cls }).isolate i .classMismatch :=
    classCheck_fails _ i c (by rw [here]; exact live) ((expectedClass_of i rfl rfl).trans hc)
      (by rw [here]; exact fun e => other (Option.some.inj e).symm)
  rw [fails]
  refine ⟨?_, ?_⟩
  · rw [isolate_here, if_neg (by rw [here, free]; decide), here, stateWhenIsolated_eq]
    dsimp only
    rw [live]
  · exact (isolate_raises _ i _ (by rw [here]; exact free)).trans (raise_at s chIsolation _ _).symm

end HelloTaken

theorem classCheck_only (s : State) (i : SpokeId) : OnlySpoke i s (s.classCheck i) := by
  unfold State.classCheck
  split
  · split
    · exact .of_eq rfl rfl
    · split
      · exact .of_eq rfl rfl
      · exact isolate_only s i _
  · exact .of_eq rfl rfl

/-- A HELLO taken in place changes the spokes and what an isolation changes. -/
theorem helloTaken_spoke (s : State) (i : SpokeId) (cls : NodeClass) : FrameSpoke s (s.helloTaken i cls) := by
  rcases found : s.store.nodeClass cls with _ | r
  · rw [helloTaken_absent found]
    exact (mapSpoke_spoke _ _ _).trans (isolate_spoke _ _ _)
  · by_cases known : s.spokes[i].knownClass = some cls
    · rw [helloTaken_known found known]
      split
      · exact (mapSpoke_spoke _ _ _ : FrameSpoke s (s.settleStart i _)).trans (mapSpoke_spoke _ _ _)
      · exact .refl s
    · rw [helloTaken_other found known]
      exact (mapSpoke_spoke _ _ _).trans (classCheck_spoke _ _)

theorem helloTaken_only (s : State) (i : SpokeId) (cls : NodeClass) (j : SpokeId) (n : j ≠ i) :
    (s.helloTaken i cls).spokes[j] = s.spokes[j] := by
  rcases found : s.store.nodeClass cls with _ | r
  · rw [helloTaken_absent found, (isolate_only _ i _ j n).1, mapSpoke_other_spoke _ _ n]
  · by_cases known : s.spokes[i].knownClass = some cls
    · rw [helloTaken_known found known]
      split
      · rw [mapSpoke_other_spoke _ _ n]
        exact mapSpoke_other_spoke _ _ n
      · rfl
    · rw [helloTaken_other found known, (classCheck_only _ i j n).1, mapSpoke_other_spoke _ _ n]

theorem hello_in_place : Claims.HelloInPlace := by
  intro s i cls lit training
  refine ⟨(helloTaken_spoke s i cls).self, helloTaken_only s i cls, fun absent => ⟨fun held => ?_, fun free => ?_⟩,
    fun r present => ⟨fun known => ⟨fun nl => ?_, fun live => ?_⟩, fun other => ⟨fun pass => ?_, fun live free => ?_⟩⟩⟩
  · rw [helloTaken_absent absent, isolate_held]
    rw [mapSpoke_here]
    exact held
  · rw [helloTaken_absent absent]
    exact helloTaken_unknown lit training free
  · rw [helloTaken_known present known, if_neg nl]
  · rw [helloTaken_known present known, if_pos live]
    unfold State.settleStart
    rw [mapSpoke_mapSpoke]
    exact mapSpoke_congr (by rw [if_pos live])
  · rw [helloTaken_other present other]
    by_cases live : s.spokes[i].state = .live
    · refine classCheck_passes _ i ?_
      rw [mapSpoke_here]
      exact pass.resolve_left (fun nl => nl live)
    · exact classCheck_not_live (by rw [mapSpoke_here]; exact live)
  · rintro ⟨c, hc, differs⟩
    rw [helloTaken_other present other]
    exact helloTaken_mismatch live free hc differs

theorem hello_taken_by_taker : Claims.HelloTakenByTaker := by
  intro s i cls rest left found queue lit
  refine ⟨s.taken i rest, rfl, (reportTurn_some left found queue).trans (congrArg Host.Outcome.next ?_)⟩
  have state := taken_state s i rest
  split
  · next training => exact actOnReport_training cls (state.trans training)
  · next training =>
    exact actOnReport_in_place cls (fun h => training (state.symm.trans h)) (fun h => lit (state.symm.trans h))

/-- Settles O17. -/
theorem helloEndsTraining : Obligations.HelloEndsTraining := ⟨hello_in_training, hello_in_place, hello_taken_by_taker⟩

/-! ## The end of a settle, and what the engine does when it is told (R28, R85 to R88) -/

theorem settle_end_tells : Claims.SettleEndTells := by
  refine fun i s settled step => ⟨fun ended => ?_, fun j left queued => ?_⟩
  · have ended' : s.due.reports = 0 ∨ s.nextQueued = none := ended.imp_right (nextQueued_none s).mpr
    exact congrArg Host.Outcome.next (if_pos ⟨settled, step, ended'⟩)
  · refine congrArg Host.Outcome.next (if_neg ?_)
    rintro ⟨_, _, none | none⟩
    · omega
    · exact queued ((nextQueued_none s).mp none j)

theorem tellEngine_unconcerned {s : State} {i : SpokeId} {c : CurrentStep} (hc : s.engine.current = some c)
    (h : c.spoke ≠ i ∨ c.complete = true) : s.tellEngine i = s := by
  unfold State.tellEngine
  rw [hc]
  refine if_neg ?_
  rintro ⟨spoke, open_⟩
  rcases h with h | h
  · exact h spoke
  · rw [h] at open_
    exact nomatch open_

theorem tellEngine_concerned {s : State} {i : SpokeId} {c : CurrentStep} (hc : s.engine.current = some c)
    (spoke : c.spoke = i) (open_ : c.complete = false) : s.tellEngine i = s.completeStep := by
  unfold State.tellEngine
  rw [hc]
  exact if_pos ⟨spoke, open_⟩

/-- The state with the current step complete. -/
def State.stepMarked (s : State) : State :=
  { s with engine := { s.engine with current := s.engine.current.map fun c => { c with complete := true } } }

theorem completeStep_stepping {s : State} {p : Params} (hp : s.engine.params = some p) (h : s.engine.state = .stepping) :
    s.completeStep = if s.engine.line = p.target then s.stepMarked.endCutover false else s.stepMarked := by
  unfold State.completeStep
  rw [h, hp]
  simp only [Option.map_some, Option.some.injEq, eq_comm]
  rfl

theorem completeStep_halting {s : State} (h : s.engine.state = .halting) :
    s.completeStep = s.stepMarked.endCutover true := by
  unfold State.completeStep
  rw [h]
  rfl

/-- The engine at the end of a cutover, and the raise of that end. -/
theorem endCutover_eq {s : State} {p : Params} (hp : s.engine.params = some p) (halted : Bool) :
    let folded := !halted && p.fold && s.engine.line.val == 32
    let e := { s.engine with state := .idle, current := none }
    s.endCutover halted = { s with engine := if folded then e.fold else e }.raise chCutoverEnd none
      (.cutoverEnd halted (if folded then e.fold else e).line folded p.origin) := by
  unfold State.endCutover
  rw [hp]
  rfl

theorem engine_told : Claims.EngineTold := by
  refine fun s i => ⟨fun still => ?_, fun c hc h => tellEngine_unconcerned hc h, fun c p hc spoke open_ hp => ?_⟩
  · exact still.elim (tellEngine_none i) (tellEngine_idle s i)
  · refine ⟨tellEngine_frame s i, ?_⟩
    rw [tellEngine_concerned hc spoke open_]
    have ends := fun halted => endCutover_eq (s := s.stepMarked) hp halted
    refine ⟨fun stepping short => ?_, fun stepping at_ fold full => ?_, fun stepping at_ plain => ?_, fun halting => ?_⟩
    · rw [completeStep_stepping hp stepping, if_neg short]
      refine ⟨rfl, ?_⟩
      unfold State.stepMarked
      rw [hc]
      rfl
    · have line : s.stepMarked.engine.line = 32 := at_.trans full
      have folded : (!false && p.fold && s.stepMarked.engine.line.val == 32) = true := by rw [fold, line]; rfl
      rw [completeStep_stepping hp stepping, if_pos at_, ends]
      dsimp only
      rw [folded]
      exact ⟨rfl, fun on => raise_mem _ _ _ _ on⟩
    · have folded : (!false && p.fold && s.stepMarked.engine.line.val == 32) = false := by
        rcases plain with plain | other
        · rw [plain]
          rfl
        · have line : s.stepMarked.engine.line.val ≠ 32 := fun e => other (at_.symm.trans (Fin.ext e))
          simp [line]
      rw [completeStep_stepping hp stepping, if_pos at_, ends]
      dsimp only
      rw [folded]
      exact ⟨rfl, fun on => raise_mem _ _ _ _ on⟩
    · rw [completeStep_halting halting, ends]
      exact ⟨rfl, fun on => raise_mem _ _ _ _ on⟩

theorem goDark_tells {s : State} {i : SpokeId} (h : s.spokes[i].state = .live) :
    (s.goDark i).engine = (s.tellEngine i).engine ∧
      (s.goDark i).channels[chCutoverEnd] = (s.tellEngine i).channels[chCutoverEnd] := by
  unfold State.goDark
  rw [mapLink_engine, mapLink_channels]
  exact enterDark_tells s i h

theorem departure_tells : Claims.DepartureTells := by
  refine ⟨fun i s live => ?_, fun tag b i s t hb hc live => ?_⟩
  · obtain ⟨engine, channels⟩ := goDark_tells live
    refine ⟨_, congrArg Host.Outcome.next (linkLoss_goDark (by rw [live]; decide)), ?_, ?_⟩
    · rw [raise_engine]
      exact engine
    rw [raise_other _ _ _ _ _ (by decide)]
    exact channels
  · obtain ⟨engine, channels⟩ := goDark_tells live
    exact ⟨t.goDark i, answers_of s rfl hc rfl (spokeRetrain_goDark hb), engine, channels⟩

/-- Settles O18. -/
theorem settleEndCompletesStep : Obligations.SettleEndCompletesStep := ⟨settle_end_tells, engine_told, departure_tells⟩

end Sys2Proof.Machine
end

section
/-! SUPPORT. The groups and their relief (R90, R97 to R100), and the steps of a cutover (R83 to R85). -/

namespace Sys2Proof.Machine

/-! ## A relief request (R90) -/

/-- What a relief request answers and changes, in each of its four cases. -/
theorem relieve_spec (s : State) (g : GroupId) (r : Relief) : ∃ o e n d,
    s.relieve g r = (o, { s with engine := e, restoreSettle := n, due := d }) ∧
    (s.engine.state ≠ .idle → o = .busy ∧ e = s.engine ∧ n = s.restoreSettle) ∧
    (s.engine.state = .idle → r.target = s.engine.line → o = .atTarget ∧ e = s.engine ∧ n = s.restoreSettle) ∧
    (s.engine.state = .idle → r.target ≠ s.engine.line → s.engine.neededBound r.target = false →
      o = .unbound ∧ e = s.engine ∧ n = s.restoreSettle) ∧
    (s.engine.state = .idle → r.target ≠ s.engine.line → s.engine.neededBound r.target = true →
      o = .fired ∧ n = r.settle ∧ e = { s.engine with
        state := .stepping, current := none, params := some ⟨r.target, r.interval, r.settle, false, .relief g⟩ }) := by
  unfold State.relieve
  by_cases idle : s.engine.state = .idle
  · rw [if_neg (not_not.mpr idle)]
    by_cases there : r.target = s.engine.line
    · rw [if_pos there]
      exact ⟨_, _, _, _, rfl, fun n => absurd idle n, fun _ _ => ⟨rfl, rfl, rfl⟩, fun _ n => absurd there n,
        fun _ n => absurd there n⟩
    · rw [if_neg there]
      cases bound : s.engine.neededBound r.target with
      | true =>
        rw [if_pos rfl]
        exact ⟨_, _, _, _, rfl, fun n => absurd idle n, fun _ h => absurd h there, nofun, fun _ _ _ => ⟨rfl, rfl, rfl⟩⟩
      | false =>
        rw [if_neg (by decide)]
        exact ⟨_, _, _, _, rfl, fun n => absurd idle n, fun _ h => absurd h there, fun _ _ _ => ⟨rfl, rfl, rfl⟩, nofun⟩
  · rw [if_pos idle]
    exact ⟨_, _, _, _, rfl, fun _ => ⟨rfl, rfl, rfl⟩, fun h => absurd h idle, fun h => absurd h idle,
      fun h => absurd h idle⟩

/-- The bank that a move toward a target needs is bound, or not (R82). -/
theorem neededBound_iff {e : Engine} {target : Fin 33} (h : target ≠ e.line) : e.neededBound target = true ↔
    e.line < target ∧ e.bankB ≠ none ∨ target < e.line ∧ e.bankA ≠ none := by
  unfold Engine.neededBound
  have apart : e.line < target ∧ ¬ target < e.line ∨ ¬ e.line < target ∧ target < e.line := by
    have : target.val ≠ e.line.val := fun x => h (Fin.ext x)
    simp only [Fin.lt_def]
    omega
  rcases apart with ⟨up, down⟩ | ⟨up, down⟩ <;> simp [up, down, Option.isSome_iff_ne_none]

theorem neededBound_not_iff {e : Engine} {target : Fin 33} (h : target ≠ e.line) : e.neededBound target = false ↔
    e.line < target ∧ e.bankB = none ∨ target < e.line ∧ e.bankA = none := by
  unfold Engine.neededBound
  have apart : e.line < target ∧ ¬ target < e.line ∨ ¬ e.line < target ∧ target < e.line := by
    have : target.val ≠ e.line.val := fun x => h (Fin.ext x)
    simp only [Fin.lt_def]
    omega
  rcases apart with ⟨up, down⟩ | ⟨up, down⟩ <;> simp [up, down]

/-! ## Entry to CROWDED (R100) -/

section Crowd

variable {s : State} {g : GroupId}

theorem mapGroup_mapGroup (s : State) (g : GroupId) (f h : Group → Group) :
    (s.mapGroup g f).mapGroup g h = s.mapGroup g fun r => h (f r) := by
  refine congrArg (fun v => { s with groups := v }) (table_ext fun j => ?_)
  show (update (update s.groups g f) g h)[j] = (update s.groups g fun r => h (f r))[j]
  rw [update_get, update_get, update_get, update_get, if_pos rfl]
  split <;> rfl

theorem crowd_without_relief (h : s.groups[g].relief = none) : s.crowd g =
    (s.mapGroup g fun r => { r with state := .crowded, remaining := 0 }).raise chCrowdHigh (some g.val)
      (.crowdHigh (s.load g) .none) := by
  unfold State.crowd
  dsimp only
  rw [h]

theorem crowd_with_relief {r : Relief} {o : ReliefState} {e : Engine} {n : Nat} {d : Due} (h : s.groups[g].relief = some r)
    (taken : (s.mapGroup g fun r => { r with state := .crowded, remaining := 0 }).relieve g r =
      (o, { s.mapGroup g (fun r => { r with state := .crowded, remaining := 0 }) with
            engine := e, restoreSettle := n, due := d })) : s.crowd g =
    ({ s with engine := e, restoreSettle := n, due := d }.mapGroup g fun r =>
      { r with state := .crowded, remaining := 0, reliefState := o }).raise chCrowdHigh (some g.val)
        (.crowdHigh (s.load g) o) := by
  unfold State.crowd
  dsimp only
  rw [h]
  dsimp only
  rw [taken]
  exact congrArg (State.raise chCrowdHigh (some g.val) (.crowdHigh (s.load g) o))
    (mapGroup_mapGroup { s with engine := e, restoreSettle := n, due := d } g
      (fun r => { r with state := .crowded, remaining := 0 }) fun r => { r with reliefState := o })

end Crowd

theorem mapGroup_here (s : State) (g : GroupId) (f : Group → Group) : (s.mapGroup g f).groups[g] = f s.groups[g] :=
  update_same _ _ _

theorem mapGroup_other (s : State) {g h : GroupId} (f : Group → Group) (n : h ≠ g) :
    (s.mapGroup g f).groups[h] = s.groups[h] := update_other _ _ n

theorem crowdTurn_rising {s : State} {g : GroupId} (due : s.due.groups[g] = true) (rising : s.groups[g].state = .rising) :
    s.crowdTurn g = (s.clearGroupTurn g).crowd g := by
  unfold State.crowdTurn
  rw [due, rising]
  rfl

/-- Settles O19, by the two cases of a group with a relief and without. -/
theorem crowdedEntryRelieves : Obligations.CrowdedEntryRelieves := by
  unfold Obligations.CrowdedEntryRelieves
  intro g s due rising
  refine ⟨_, congrArg Host.Outcome.next (crowdTurn_rising due rising), ?_⟩
  rcases relief : s.groups[g].relief with _ | r
  · rw [crowd_without_relief (s := s.clearGroupTurn g) relief]
    refine ⟨?_, ?_, fun h n => mapGroup_other _ _ n, rfl, fun _ => ⟨?_, rfl, rfl⟩, nofun,
      fun on => raise_mem _ _ _ _ on⟩
    all_goals rw [raise_groups, mapGroup_here]
    rfl
  · obtain ⟨o, e, n, d, taken, busy, atTarget, unbound, fired⟩ :=
      relieve_spec ((s.clearGroupTurn g).mapGroup g fun r => { r with state := .crowded, remaining := 0 }) g r
    rw [crowd_with_relief (s := s.clearGroupTurn g) relief taken]
    have here : (State.raise chCrowdHigh (some g.val) (.crowdHigh ((s.clearGroupTurn g).load g) o)
        ({ s.clearGroupTurn g with engine := e, restoreSettle := n, due := d }.mapGroup g fun r =>
          { r with state := .crowded, remaining := 0, reliefState := o })).groups[g] =
        { s.groups[g] with state := .crowded, remaining := 0, reliefState := o } := mapGroup_here _ _ _
    rw [here]
    refine ⟨rfl, rfl, fun h n => mapGroup_other _ _ n, rfl, nofun, ?_, fun on => raise_mem _ _ _ _ on⟩
    rintro r' ⟨rfl⟩
    refine ⟨busy, atTarget, fun idle away open_ => ?_, fun idle open_ => ?_⟩
    · exact unbound idle away ((neededBound_not_iff away).mpr open_)
    · have away : r.target ≠ s.engine.line := by
        intro same
        rw [same] at open_
        rcases open_ with ⟨h, _⟩ | ⟨h, _⟩ <;> exact lt_irrefl _ h
      exact fired idle away ((neededBound_iff away).mpr open_)

/-! ## CALM, and the evaluations of a group (R98, R99) -/

theorem calmTurn_falling {s : State} {g : GroupId} (due : s.due.groups[g] = true)
    (falling : s.groups[g].state = .falling) : s.calmTurn g = (s.clearGroupTurn g).calm g := by
  unfold State.calmTurn
  rw [due, falling]
  rfl

theorem group_becomes_calm : Claims.GroupBecomesCalm := fun _ _ due falling =>
  ⟨_, congrArg Host.Outcome.next (calmTurn_falling due falling), rfl, rfl, fun on => raise_mem _ _ _ _ on⟩

theorem turns_iff (g : Group) (load : Nat) : g.turns load = true ↔ g.remaining ≤ 1 ∧
    ((g.state = .rising ∧ g.high < load) ∨ (g.state = .falling ∧ load < g.low)) := by
  unfold Group.turns
  cases g.state <;> simp [and_comm]

theorem evaluate_of_turns {g : Group} {load : Nat} (h : g.turns load = true) : g.evaluate load = g := if_pos h

/-- The evaluation of a group whose dwell does not run out. -/
theorem evaluate_of_not_turns {g : Group} {load : Nat} (h : ¬ (g.remaining ≤ 1 ∧
    ((g.state = .rising ∧ g.high < load) ∨ (g.state = .falling ∧ load < g.low)))) : g.evaluate load =
    match g.state with
    | .off => g
    | .calm => if g.high < load then { g with state := .rising, remaining := g.dwell } else g
    | .rising => if g.high < load then { g with remaining := g.remaining - 1 } else { g with state := .calm, remaining := 0 }
    | .crowded => if load < g.low then { g with state := .falling, remaining := g.dwell } else g
    | .falling =>
      if load < g.low then { g with remaining := g.remaining - 1 } else { g with state := .crowded, remaining := 0 } := by
  refine (if_neg (mt (turns_iff g load).mp h)).trans ?_
  cases g.state <;> rfl

theorem group_compares_thresholds : Claims.GroupComparesThresholds := by
  refine fun g load => ⟨turns_iff g load, evaluate_of_turns, fun off => ?_, fun calm => ?_, fun rising fell => ?_,
    fun rising high dwell => ?_, fun crowded => ?_, fun falling rose => ?_, fun falling low dwell => ?_⟩
  · rw [evaluate_of_not_turns (by simp [off]), off]
  · rw [evaluate_of_not_turns (by simp [calm]), calm]
  · rw [evaluate_of_not_turns (by simp [rising, fell]), rising]
    exact if_neg (Nat.not_lt.mpr fell)
  · rw [evaluate_of_not_turns (fun h => absurd h.1 (Nat.not_le.mpr dwell)), rising]
    exact if_pos high
  · rw [evaluate_of_not_turns (by simp [crowded]), crowded]
  · rw [evaluate_of_not_turns (by simp [falling, rose]), falling]
    exact if_neg (Nat.not_lt.mpr rose)
  · rw [evaluate_of_not_turns (fun h => absurd h.1 (Nat.not_le.mpr dwell)), falling]
    exact if_pos low

/-- Settles O47. -/
theorem groupsMove : Obligations.GroupsMove := ⟨group_becomes_calm, group_compares_thresholds⟩

/-! ## A spoke moved across the line (R84, R85) -/

/-- The state in which a step has moved the line over a spoke, before what the step does with that spoke. -/
def State.lineMoved (i : SpokeId) (up : Bool) (line : Fin 33) (s : State) : State :=
  { s with engine := { s.engine with line := line, current := some ⟨i, up, false, 0⟩ }
           due := { s.due with step := false } }

section Step

variable {s : State} {p : Params} {i : SpokeId} {n : Fin 32} {up : Bool} {line : Fin 33}

theorem stepTurn_stepping (due : s.due.step = true) (stepping : s.engine.state = .stepping) :
    s.stepTurn = { s with due := { s.due with step := false } }.takeStep := by
  unfold State.stepTurn
  rw [if_pos due]
  exact if_pos stepping

/-- A step toward the target moves the spoke at its place of the sweep order, upward or downward. -/
theorem stepTurn_moves (due : s.due.step = true) (stepping : s.engine.state = .stepping) (hp : s.engine.params = some p)
    (place : s.engine.order[n] = i)
    (toward : (up = true ∧ s.engine.line < p.target ∧ n.val = s.engine.line.val ∧ line.val = n.val + 1) ∨
      (up = false ∧ p.target < s.engine.line ∧ n.val + 1 = s.engine.line.val ∧ line.val = n.val)) :
    s.stepTurn = { s with due := { s.due with step := false } }.moveAcross i up line p := by
  rw [stepTurn_stepping due stepping]
  unfold State.takeStep
  dsimp only
  rw [hp]
  dsimp only
  subst place
  rcases toward with ⟨rfl, ahead, atLine, next⟩ | ⟨rfl, behind, atLine, next⟩
  · rw [dif_pos (Fin.lt_def.mp ahead)]
    congr 1
    · simp [atLine]
    · exact Fin.ext (show s.engine.line.val + 1 = line.val by omega)
  · rw [dif_neg (by have := Fin.lt_def.mp behind; omega), dif_pos (Fin.lt_def.mp behind)]
    congr 1
    · simp [← atLine]
    · exact Fin.ext (show s.engine.line.val - 1 = line.val by omega)

/-- The spoke that a step moves stands at the place of the sweep order that the line passed. -/
theorem sweepPos_of_place (order : s.engine.order.toList.Nodup) (place : s.engine.order[n] = i) :
    s.engine.sweepPos i = n.val := by
  unfold Engine.sweepPos
  subst place
  have := order.idxOf_getElem n.val (by simp)
  simpa using this

theorem lineMoved_expects (order : s.engine.order.toList.Nodup) (place : s.engine.order[n] = i)
    (moved : (up = true ∧ line.val = n.val + 1) ∨ (up = false ∧ line.val = n.val)) :
    (s.lineMoved i up line).expectedClass i =
      (if up then s.engine.bankB else s.engine.bankA).bind fun k => (s.slots[k].plan[i]).expect := by
  have follows : (s.lineMoved i up line).engine.followsB i = up := by
    have pos : (s.lineMoved i up line).engine.sweepPos i = n.val := sweepPos_of_place order place
    have here : (s.lineMoved i up line).engine.line = line := rfl
    unfold Engine.followsB
    rw [pos, here]
    rcases moved with ⟨rfl, h⟩ | ⟨rfl, h⟩ <;> simp [h]
  unfold State.expectedClass State.followedEntry Engine.followedSlot
  rw [follows, Option.bind_map]
  rfl

theorem moveAcross_not_live (h : s.spokes[i].state ≠ .live) :
    { s with due := { s.due with step := false } }.moveAcross i up line p = (s.lineMoved i up line).tellEngine i := if_neg h

theorem moveAcross_live (h : s.spokes[i].state = .live) :
    { s with due := { s.due with step := false } }.moveAcross i up line p =
      if p.settle = 0 then (((s.lineMoved i up line).settleStart i p.settle).classCheck i).tellEngine i
      else ((s.lineMoved i up line).settleStart i p.settle).classCheck i := if_pos h

theorem settleStart_zero (s : State) (i : SpokeId) : s.settleStart i 0 = s := by
  refine congrArg (fun v => { s with spokes := v }) (table_ext fun j => ?_)
  rw [update_get]
  split
  · next h =>
    rw [h]
    split
    · simp
    · rfl
  · rfl

theorem settleStart_live (h : s.spokes[i].state = .live) (k : Nat) :
    s.settleStart i k = s.mapSpoke i fun r => { r with settle := max r.settle k } :=
  mapSpoke_congr (if_pos h)

/-- The engine, once told of the spoke of its step, has no incomplete step on it. -/
theorem tellEngine_tellEngine {c : CurrentStep} (hc : s.engine.current = some c) (spoke : c.spoke = i)
    (open_ : c.complete = false) (running : s.engine.state ≠ .idle) :
    (s.tellEngine i).engine.current = none ∨
      ∃ d, (s.tellEngine i).engine.current = some d ∧ d.complete = true := by
  rw [tellEngine_concerned hc spoke open_]
  have ended (u : State) (halted : Bool) : (u.endCutover halted).engine.current = none := by
    unfold State.endCutover
    dsimp only
    rw [raise_engine]
    split <;> rfl
  unfold State.completeStep
  rw [hc]
  cases hs : s.engine.state with
  | idle => exact absurd hs running
  | halting => exact .inl (ended _ _)
  | stepping =>
    dsimp only
    split
    · exact .inl (ended _ _)
    · exact .inr ⟨_, rfl, rfl⟩

theorem tellEngine_of_told (h : s.engine.current = none ∨ ∃ d, s.engine.current = some d ∧ d.complete = true) :
    s.tellEngine i = s := by
  rcases h with h | ⟨d, hd, complete⟩
  · exact tellEngine_none i h
  · exact tellEngine_unconcerned hd (.inr complete)

end Step

theorem moved_spoke_settles : Claims.MovedSpokeSettles := by
  intro s p i n up line due stepping hp order place toward v expected
  have moves : exec .cutoverStep s = .next ({ s with due := { s.due with step := false } }.moveAcross i up line p) :=
    congrArg Host.Outcome.next (stepTurn_moves due stepping hp place toward)
  have expects : v.expectedClass i = expected :=
    lineMoved_expects order place (toward.imp (fun ⟨u, _, _, l⟩ => ⟨u, l⟩) fun ⟨u, _, _, l⟩ => ⟨u, l⟩)
  refine ⟨fun nl => moves.trans (congrArg _ (moveAcross_not_live nl)), fun live pass => ?_,
    fun c live free hc differs => ?_⟩
  · have checked (u : State) (he : u.engine = v.engine) (hs : u.slots = v.slots)
        (hk : u.spokes[i].knownClass = s.spokes[i].knownClass) : u.classCheck i = u := by
      refine classCheck_passes u i ?_
      rw [expectedClass_of i he hs, expects, hk]
      exact pass
    refine ⟨fun zero => moves.trans (congrArg _ ?_), fun some_ => moves.trans (congrArg _ ?_)⟩
    · rw [moveAcross_live live, if_pos zero, zero, show ((0 : Fin 64) : Nat) = 0 from rfl, settleStart_zero,
        checked (s.lineMoved i up line) rfl rfl rfl]
      rfl
    · rw [moveAcross_live live, if_neg some_, settleStart_live (s := s.lineMoved i up line) live]
      exact checked (v.mapSpoke i fun r => { r with settle := max r.settle p.settle }) rfl rfl (by rw [mapSpoke_here])
  · have settled : (v.settleStart i p.settle).spokes[i] = { s.spokes[i] with settle := max s.spokes[i].settle p.settle } := by
      rw [settleStart_live (s := v) live, mapSpoke_here]
    have free' : (v.settleStart i p.settle).spokes[i].hold.isolates = false := by rw [settled]; exact free
    have live' : (v.settleStart i p.settle).spokes[i].state = .live := by rw [settled]; exact live
    have fails : (v.settleStart i p.settle).classCheck i = (v.settleStart i p.settle).isolate i .classMismatch :=
      classCheck_fails _ i c live' ((expectedClass_of i rfl rfl).trans (expects.trans hc)) (by rw [settled]; exact differs)
    have told := isolate_tells (v.settleStart i p.settle) i .classMismatch free' live'
    have same := tellEngine_of (s := v) (t := v.settleStart i p.settle) i rfl rfl rfl
    have here := isolate_spokes (v.settleStart i p.settle) i .classMismatch
    have raised := isolate_raises (v.settleStart i p.settle) i .classMismatch free'
    generalize ht : (v.settleStart i p.settle).isolate i .classMismatch = t at fails told here raised
    rw [same.1, same.2] at told
    have complete : t.tellEngine i = t := tellEngine_of_told (by
      rw [told.1]
      exact tellEngine_tellEngine (s := v) rfl rfl rfl (by rw [show v.engine.state = .stepping from stepping]; decide))
    have act : { s with due := { s.due with step := false } }.moveAcross i up line p = t := by
      rw [moveAcross_live live]
      show (if p.settle = 0 then ((v.settleStart i p.settle).classCheck i).tellEngine i
        else (v.settleStart i p.settle).classCheck i) = t
      rw [fails, complete, ite_self]
    refine ⟨t, moves.trans (congrArg _ act), ?_, told.1, told.2, fun on => ?_⟩
    · rw [here, if_neg (by rw [free']; decide)]
      refine table_ext fun j => ?_
      by_cases e : j = i
      · rw [e, update_same, update_same, settled]
        dsimp only
        rw [live]
        rfl
      · rw [update_other _ _ e, update_other _ _ e, settleStart_spokes, update_other _ _ e]
    · rw [raised]
      have := raise_mem (v.settleStart i p.settle) chIsolation (some i.val) (.isolation .classMismatch) on
      rwa [raise_at] at this

theorem step_moves_one_spoke : Claims.StepMovesOneSpoke := by
  intro s p due stepping hp away
  refine ⟨s.stepTurn, rfl, (stepTurn_spoke s).self, fun n ahead atLine short nl => ?_, fun n ahead atLine some_ live none_ order => ?_,
    fun n behind atLine short nl => ?_⟩
  · rw [stepTurn_moves (line := ⟨n.val + 1, by omega⟩) due stepping hp rfl (.inl ⟨rfl, ahead, atLine, rfl⟩), moveAcross_not_live nl]
    obtain ⟨frame, told, _⟩ := (engine_told (s.lineMoved s.engine.order[n] true ⟨n.val + 1, by omega⟩) _).2.2 _ p rfl rfl rfl hp
    refine ⟨by rw [frame]; rfl, (told stepping fun h => short ?_).2⟩
    rw [← h, ← atLine]
    rfl
  · rw [stepTurn_moves (line := ⟨n.val + 1, by omega⟩) due stepping hp rfl (.inl ⟨rfl, ahead, atLine, rfl⟩), moveAcross_live live,
      if_neg (fun h => by rw [h] at some_; exact absurd some_ (by decide)),
      settleStart_live (s := s.lineMoved _ true _) live, classCheck_passes]
    · exact ⟨rfl, rfl⟩
    · left
      exact (expectedClass_of (s := s.lineMoved s.engine.order[n] true ⟨n.val + 1, by omega⟩) _ rfl rfl).trans
        ((lineMoved_expects order rfl (.inl ⟨rfl, rfl⟩)).trans none_)
  · rw [stepTurn_moves (line := ⟨n.val, by omega⟩) due stepping hp rfl (.inr ⟨rfl, behind, atLine, rfl⟩), moveAcross_not_live nl]
    obtain ⟨frame, told, _⟩ := (engine_told (s.lineMoved s.engine.order[n] false ⟨n.val, by omega⟩) _).2.2 _ p rfl rfl rfl hp
    refine ⟨by rw [frame]; rfl, (told stepping fun h => short ?_).2⟩
    rw [← h]
    rfl

/-! ## When a step is due (R83) -/

theorem stepDue_iff {e : Engine} {p : Params} (hp : e.params = some p) : e.stepDue = true ↔
    e.state = .stepping ∧ p.target ≠ e.line ∧ ∀ c, e.current = some c → c.complete = true ∧ p.interval ≤ c.frames + 1 := by
  unfold Engine.stepDue
  rw [hp]
  cases e.current <;> simp

theorem boundary_of_not_due {e : Engine} (h : e.stepDue = false) : e.boundary =
    { e with current := e.current.map fun c => { c with frames := min 255 (c.frames + 1) } } :=
  if_neg (by rw [h]; decide)

theorem step_decision : Claims.StepDecision := by
  refine fun e p hp => ⟨fun n => ?_, fun there => ?_, fun stepping away none_ => ?_, fun c stepping away hc => ?_,
    fun c h hc => ?_⟩
  · exact Bool.eq_false_iff.mpr fun h => n ((stepDue_iff hp).mp h).1
  · exact Bool.eq_false_iff.mpr fun h => ((stepDue_iff hp).mp h).2.1 there.symm
  · exact (stepDue_iff hp).mpr ⟨stepping, away.symm, fun c hc => by rw [none_] at hc; exact nomatch hc⟩
  · rw [stepDue_iff hp]
    simp [stepping, away.symm, hc]
  · rw [boundary_of_not_due h, hc]
    rfl

/-- Settles O48. -/
theorem cutoverSteps : Obligations.CutoverSteps := ⟨step_moves_one_spoke, moved_spoke_settles, step_decision⟩

end Sys2Proof.Machine
end

section
/-! SUPPORT. The operands of commands (R170): what each reader of an operand takes, and the ranges of the commands whose
operands are read together. -/

namespace Sys2Proof.Machine

/-! ## One operand -/

theorem below_some_iff {n : Nat} {b : Byte} {i : Fin n} : below n b = some i ↔ i.val = b.toNat := by
  unfold below
  split
  · simp [Fin.ext_iff, eq_comm]
  · have := i.isLt
    simp
    omega

theorem below_none_iff {n : Nat} {b : Byte} : below n b = none ↔ n ≤ b.toNat := by
  unfold below
  split <;> simp <;> omega

theorem within_some_iff {lo hi n m : Nat} : within lo hi n = some m ↔ m = n ∧ lo ≤ n ∧ n ≤ hi := by
  unfold within
  split
  · simp [*, eq_comm]
  · simp
    omega

theorem within_none_iff {lo hi n : Nat} : within lo hi n = none ↔ n < lo ∨ hi < n := by
  unfold within
  split <;> simp <;> omega

theorem flagOf_some_iff {b : Byte} {f : Bool} : flagOf b = some f ↔ b.toNat = f.toNat := by
  unfold flagOf
  cases f <;> split_ifs <;> simp <;> bv_omega

theorem flagOf_none_iff {b : Byte} : flagOf b = none ↔ 2 ≤ b.toNat := by
  unfold flagOf
  split_ifs <;> simp <;> bv_omega

theorem feedStateOf_some_iff {b : Byte} {st : FeedState} : feedStateOf b = some st ↔ b.toNat = st.code := by
  unfold feedStateOf FeedState.code
  cases st <;> split_ifs <;> simp <;> bv_omega

theorem feedStateOf_none_iff {b : Byte} : feedStateOf b = none ↔ 3 ≤ b.toNat := by
  unfold feedStateOf
  split_ifs <;> simp <;> bv_omega

theorem captureKindOf_some_iff {b : Byte} {k : CaptureKind} : captureKindOf b = some k ↔ b.toNat = k.code := by
  unfold captureKindOf CaptureKind.code
  cases k <;> split_ifs <;> simp <;> bv_omega

theorem captureKindOf_none_iff {b : Byte} : captureKindOf b = none ↔ 2 ≤ b.toNat := by
  unfold captureKindOf
  split_ifs <;> simp <;> bv_omega

theorem faultKindOf_some_iff {b : Byte} {k : FaultKind} : faultKindOf b = some k ↔ b.toNat = faultKindCode k := by
  unfold faultKindOf faultKindCode
  cases k <;> split_ifs <;> simp <;> bv_omega

theorem faultKindOf_none_iff {b : Byte} : faultKindOf b = none ↔ 5 ≤ b.toNat := by
  unfold faultKindOf
  split_ifs <;> simp <;> bv_omega

theorem modeOf_some_iff {b : Byte} {m : Mode} : modeOf b = some m ↔ b.toNat = m.code := by
  unfold modeOf Mode.code
  cases m <;> split_ifs <;> simp <;> bv_omega

theorem modeOf_none_iff {b : Byte} : modeOf b = none ↔ 4 ≤ b.toNat := by
  unfold modeOf
  split_ifs <;> simp <;> bv_omega

/-! ## A list of operands -/

section ReadAll

variable {α β : Type} {f : α → Option β} {l : List α}

theorem readAll_some_iff {m : List β} : readAll f l = some m ↔ l.map f = m.map some := by
  induction l generalizing m with
  | nil => cases m <;> simp [readAll]
  | cons a l ih =>
    rw [readAll]
    rcases m with _ | ⟨b, m⟩
    · rcases f a with _ | c
      · simp
      · rcases readAll f l with _ | r <;> simp
    · rw [List.map_cons, List.map_cons, List.cons.injEq, ← ih]
      rcases f a with _ | c
      · simp
      · rcases readAll f l with _ | r <;> simp

theorem readAll_none_iff : readAll f l = none ↔ ∃ a ∈ l, f a = none := by
  induction l with
  | nil => simp [readAll]
  | cons a l ih =>
    rw [List.exists_mem_cons_iff, ← ih, readAll]
    rcases f a with _ | c
    · simp
    · rcases readAll f l with _ | r <;> simp

end ReadAll

/-! ## FEED SET (R8) -/

section FeedSet

variable {fd st op bd lv : Byte}

theorem feedSetOf_some_iff {f : FeedId} {r : FeedRec} : feedSetOf fd st op bd lv = some (f, r) ↔ below 24 fd = some f ∧
    feedStateOf st = some r.state ∧ below 8 op = some r.operator ∧ below 16 bd = some r.band ∧ below 81 lv = some r.level := by
  unfold feedSetOf
  rcases below 24 fd with _ | f'
  · simp
  rcases feedStateOf st with _ | st'
  · simp
  rcases below 8 op with _ | o
  · simp
  rcases below 16 bd with _ | b
  · simp
  rcases below 81 lv with _ | l
  · simp
  cases r
  simp

theorem feedSetOf_none_iff : feedSetOf fd st op bd lv = none ↔ below 24 fd = none ∨ feedStateOf st = none ∨
    below 8 op = none ∨ below 16 bd = none ∨ below 81 lv = none := by
  unfold feedSetOf
  rcases below 24 fd with _ | f
  · simp
  rcases feedStateOf st with _ | st
  · simp
  rcases below 8 op with _ | o
  · simp
  rcases below 16 bd with _ | b
  · simp
  rcases below 81 lv with _ | l <;> simp

theorem feedState_code_eq {st : FeedState} {b : Byte} (h : b.toNat = st.code) :
    (st = .unused ↔ b = 0#8) ∧ (st = .active ↔ b = 1#8) ∧ (st = .muted ↔ b = 2#8) := by
  cases st <;> simp only [FeedState.code] at h <;> simp <;> bv_omega

theorem feed_set_ranges : Claims.FeedSetRanges := by
  refine fun fd st op bd lv => ⟨?_, fun f r h => ?_⟩
  · simp only [feedSetOf_none_iff, below_none_iff, feedStateOf_none_iff]
  · obtain ⟨hf, hst, ho, hb, hl⟩ := feedSetOf_some_iff.mp h
    exact ⟨below_some_iff.mp hf, below_some_iff.mp ho, below_some_iff.mp hb, below_some_iff.mp hl,
      feedState_code_eq (feedStateOf_some_iff.mp hst)⟩

end FeedSet

/-! ## CUTOVER, and the relief of WATCH SET (R82, R102) -/

section Cutover

variable {a b c d : Byte}

theorem paramsOf_some_iff {p : Params} : paramsOf a b c d = some p ↔ below 33 a = some p.target ∧
    within 1 255 b.toNat = some p.interval ∧ below 64 c = some p.settle ∧ flagOf d = some p.fold ∧ p.origin = .command := by
  unfold paramsOf
  rcases below 33 a with _ | t
  · simp
  rcases within 1 255 b.toNat with _ | n
  · simp
  rcases below 64 c with _ | s
  · simp
  rcases flagOf d with _ | f
  · simp
  cases p
  simp [eq_comm]

theorem paramsOf_none_iff : paramsOf a b c d = none ↔ below 33 a = none ∨ within 1 255 b.toNat = none ∨
    below 64 c = none ∨ flagOf d = none := by
  unfold paramsOf
  rcases below 33 a with _ | t
  · simp
  rcases within 1 255 b.toNat with _ | n
  · simp
  rcases below 64 c with _ | s
  · simp
  rcases flagOf d with _ | f <;> simp

theorem cutover_ranges : Claims.CutoverRanges := by
  refine fun a b c d => ⟨?_, fun p h => ?_⟩
  · rw [paramsOf_none_iff, below_none_iff, within_none_iff, below_none_iff, flagOf_none_iff]
    bv_omega
  · obtain ⟨ht, hi, hs, hf, ho⟩ := paramsOf_some_iff.mp h
    have fold := flagOf_some_iff.mp hf
    refine ⟨below_some_iff.mp ht, (within_some_iff.mp hi).1, below_some_iff.mp hs, ?_, ho⟩
    cases hp : p.fold <;> rw [hp] at fold <;> simp at fold ⊢ <;> bv_omega

end Cutover

section Relief

variable {p tg iv st : Byte}

theorem reliefOf_absent (h : p.toNat = 0) : reliefOf p tg iv st = some none := by
  unfold reliefOf
  rw [flagOf_some_iff (f := false) |>.mpr h]

theorem reliefOf_unread (h : 2 ≤ p.toNat) : reliefOf p tg iv st = none := by
  unfold reliefOf
  rw [flagOf_none_iff.mpr h]

theorem reliefOf_present_some_iff (h : p.toNat = 1) {r : Option Relief} : reliefOf p tg iv st = some r ↔ ∃ x, r = some x ∧
    below 33 tg = some x.target ∧ within 1 255 iv.toNat = some x.interval ∧ below 64 st = some x.settle := by
  unfold reliefOf
  rw [flagOf_some_iff (f := true) |>.mpr h]
  dsimp only
  rcases below 33 tg with _ | t
  · simp
  rcases within 1 255 iv.toNat with _ | n
  · simp
  rcases below 64 st with _ | s
  · simp
  rcases r with _ | ⟨_, _, _⟩ <;> simp [eq_comm]

theorem reliefOf_present_none_iff (h : p.toNat = 1) : reliefOf p tg iv st = none ↔
    below 33 tg = none ∨ within 1 255 iv.toNat = none ∨ below 64 st = none := by
  unfold reliefOf
  rw [flagOf_some_iff (f := true) |>.mpr h]
  dsimp only
  rcases below 33 tg with _ | t
  · simp
  rcases within 1 255 iv.toNat with _ | n
  · simp
  rcases below 64 st with _ | s <;> simp

theorem relief_ranges : Claims.ReliefRanges := by
  intro p tg iv st
  have one : p = 1#8 ↔ p.toNat = 1 := by bv_omega
  refine ⟨?_, fun zero => reliefOf_absent (by rw [zero]; rfl), fun h => ?_, fun r h => ?_⟩
  · rcases (by omega : p.toNat = 0 ∨ p.toNat = 1 ∨ 2 ≤ p.toNat) with h | h | h
    · rw [reliefOf_absent h, one]
      simp
      omega
    · rw [reliefOf_present_none_iff h, one, below_none_iff, within_none_iff, below_none_iff]
      bv_omega
    · rw [reliefOf_unread h]
      exact iff_of_true rfl (.inl h)
  · rw [Ne, reliefOf_present_some_iff (one.mp h)]
    simp
  · rcases (by omega : p.toNat = 0 ∨ p.toNat = 1 ∨ 2 ≤ p.toNat) with zero | there | high
    · rw [reliefOf_absent zero] at h
      simp at h
    · obtain ⟨x, e, ht, hi, hs⟩ := (reliefOf_present_some_iff there).mp h
      obtain rfl := Option.some.inj e
      exact ⟨below_some_iff.mp ht, (within_some_iff.mp hi).1, below_some_iff.mp hs⟩
    · rw [reliefOf_unread high] at h
      exact nomatch h

end Relief

/-! ## CAPTURE (R106) -/

section CaptureOperands

variable {a b c : Byte}

theorem targetOf_some_iff {x : Target} : targetOf a b c = some x ↔
    below 32 a = some x.spoke ∧ below 4 b = some x.pos ∧ captureKindOf c = some x.kind := by
  unfold targetOf
  rcases below 32 a with _ | i
  · simp
  rcases below 4 b with _ | k
  · simp
  rcases captureKindOf c with _ | k
  · simp
  cases x
  simp

theorem targetOf_none_iff : targetOf a b c = none ↔ below 32 a = none ∨ below 4 b = none ∨ captureKindOf c = none := by
  unfold targetOf
  rcases below 32 a with _ | i
  · simp
  rcases below 4 b with _ | k
  · simp
  rcases captureKindOf c with _ | k <;> simp

end CaptureOperands

section CaptureMode

variable {d : Byte} {iv : Half}

theorem captureModeOf_single (h : d.toNat = 0) : captureModeOf d iv = some none := by
  unfold captureModeOf
  rw [flagOf_some_iff (f := false) |>.mpr h]

theorem captureModeOf_continuous (h : d.toNat = 1) : captureModeOf d iv = (within 1 1000 iv.toNat).map some := by
  unfold captureModeOf
  rw [flagOf_some_iff (f := true) |>.mpr h]

theorem captureModeOf_unread (h : 2 ≤ d.toNat) : captureModeOf d iv = none := by
  unfold captureModeOf
  rw [flagOf_none_iff.mpr h]

end CaptureMode

theorem capture_ranges : Claims.CaptureRanges := by
  intro a b c d iv
  have one : d = 1#8 ↔ d.toNat = 1 := by bv_omega
  refine ⟨?_, fun x h => ?_, ?_, fun h => captureModeOf_single (by rw [h]; rfl), fun h lo hi => ?_⟩
  · rw [targetOf_none_iff, below_none_iff, below_none_iff, captureKindOf_none_iff]
  · obtain ⟨hi, hk, hc⟩ := targetOf_some_iff.mp h
    have kind := captureKindOf_some_iff.mp hc
    refine ⟨below_some_iff.mp hi, below_some_iff.mp hk, ?_⟩
    cases hx : x.kind <;> rw [hx] at kind <;> simp only [CaptureKind.code] at kind <;> simp <;> bv_omega
  · rw [one]
    rcases (by omega : d.toNat = 0 ∨ d.toNat = 1 ∨ 2 ≤ d.toNat) with h | h | h
    · rw [captureModeOf_single h]
      simp
      omega
    · rw [captureModeOf_continuous h, Option.map_eq_none_iff, within_none_iff]
      omega
    · rw [captureModeOf_unread h]
      exact iff_of_true rfl (.inl h)
  · rw [captureModeOf_continuous (one.mp h), within_eq_some lo hi]
    rfl

/-! ## QUALIFY (R126) -/

section QualifyOperands

variable {a b c d e f : Byte} {lv : Half}

theorem qualifyOf_some_iff {k : FaultKind} {st : Settings} : qualifyOf a b c d e f lv = some (k, st) ↔
    faultKindOf a = some k ∧ modeOf b = some st.mode ∧ within 1 255 c.toNat = some st.n ∧
    within 1 255 d.toNat = some st.window ∧ below 4 e = some st.unit ∧ flagOf f = some st.isolate ∧
    levelOf k lv = some st.level ∧ kindTakes k st.mode = true := by
  unfold qualifyOf
  rcases faultKindOf a with _ | k'
  · simp
  rcases modeOf b with _ | m
  · simp
  rcases within 1 255 c.toNat with _ | n
  · simp
  rcases within 1 255 d.toNat with _ | w
  · simp
  rcases below 4 e with _ | u
  · simp
  rcases flagOf f with _ | i
  · simp
  dsimp only
  rcases level : levelOf k' lv with _ | l
  · simp
    rintro rfl _ _ _ _ _
    simp [level]
  dsimp only
  cases st
  split
  · next takes =>
    simp only [Option.some.injEq, Prod.mk.injEq, Settings.mk.injEq]
    constructor
    · rintro ⟨rfl, rfl, rfl, rfl, rfl, rfl, rfl⟩
      exact ⟨rfl, rfl, rfl, rfl, rfl, rfl, level, takes⟩
    · rintro ⟨rfl, rfl, rfl, rfl, rfl, rfl, h, _⟩
      rw [level, Option.some.injEq] at h
      exact ⟨rfl, rfl, rfl, rfl, rfl, rfl, h⟩
  · next refused =>
    simp only [Option.some.injEq]
    constructor
    · nofun
    · rintro ⟨rfl, rfl, _, _, _, _, _, takes⟩
      exact absurd takes refused

theorem qualifyOf_none_iff : qualifyOf a b c d e f lv = none ↔
    faultKindOf a = none ∨ modeOf b = none ∨ within 1 255 c.toNat = none ∨ within 1 255 d.toNat = none ∨
    below 4 e = none ∨ flagOf f = none ∨ (∃ k, faultKindOf a = some k ∧ levelOf k lv = none) ∨
    (∃ k m, faultKindOf a = some k ∧ modeOf b = some m ∧ kindTakes k m = false) := by
  unfold qualifyOf
  rcases faultKindOf a with _ | k
  · simp
  rcases modeOf b with _ | m
  · simp
  rcases within 1 255 c.toNat with _ | n
  · simp
  rcases within 1 255 d.toNat with _ | w
  · simp
  rcases below 4 e with _ | u
  · simp
  rcases flagOf f with _ | i
  · simp
  dsimp only
  rcases level : levelOf k lv with _ | l <;> simp [level]

theorem levelOf_none_iff {k : FaultKind} : levelOf k lv = none ↔ k = .opticalLow ∧ (lv.toInt < -300 ∨ 50 < lv.toInt) := by
  unfold levelOf
  cases k <;> simp
  omega

theorem levelOf_some {k : FaultKind} {l : Option Int} (h : levelOf k lv = some l) :
    l = if k = .uplinkOverload then some (lv.toNat : Int) else if k = .opticalLow then some lv.toInt else none := by
  unfold levelOf at h
  cases k with
  | opticalLow =>
    dsimp only at h
    split at h
    · exact (Option.some.inj h).symm
    · exact nomatch h
  | _ => exact (Option.some.inj h).symm

theorem kindTakes_false_iff {k : FaultKind} {m : Mode} :
    kindTakes k m = false ↔ k = .frameErrors ∧ (m = .persist ∨ m = .duration) := by
  cases k <;> cases m <;> decide

end QualifyOperands

theorem qualify_ranges : Claims.QualifyRanges := by
  intro a b c d e f lv
  refine ⟨?_, fun k st h => ?_⟩
  · have level : (∃ k, faultKindOf a = some k ∧ levelOf k lv = none) ↔ a.toNat = 4 ∧ (lv.toInt < -300 ∨ 50 < lv.toInt) := by
      simp only [levelOf_none_iff, faultKindOf_some_iff]
      constructor
      · rintro ⟨_, h, rfl, l⟩
        exact ⟨h, l⟩
      · rintro ⟨h, l⟩
        exact ⟨.opticalLow, h, rfl, l⟩
    have taken : (∃ k m, faultKindOf a = some k ∧ modeOf b = some m ∧ kindTakes k m = false) ↔
        a.toNat = 0 ∧ (b.toNat = 1 ∨ b.toNat = 3) := by
      simp only [kindTakes_false_iff, faultKindOf_some_iff, modeOf_some_iff]
      constructor
      · rintro ⟨_, _, ha, hb, rfl, rfl | rfl⟩
        · exact ⟨ha, .inl hb⟩
        · exact ⟨ha, .inr hb⟩
      · rintro ⟨ha, hb | hb⟩
        · exact ⟨.frameErrors, .persist, ha, hb, rfl, .inl rfl⟩
        · exact ⟨.frameErrors, .duration, ha, hb, rfl, .inr rfl⟩
    rw [qualifyOf_none_iff, level, taken, faultKindOf_none_iff, modeOf_none_iff, within_none_iff, within_none_iff,
      below_none_iff, flagOf_none_iff]
    have four : a = 4#8 ↔ a.toNat = 4 := by bv_omega
    have zero : a = 0#8 ↔ a.toNat = 0 := by bv_omega
    have mode : (b = 1#8 ↔ b.toNat = 1) ∧ (b = 3#8 ↔ b.toNat = 3) := by constructor <;> bv_omega
    have counts : (c.toNat < 1 ∨ 255 < c.toNat ↔ c = 0#8) ∧ (d.toNat < 1 ∨ 255 < d.toNat ↔ d = 0#8) := by
      constructor <;> bv_omega
    rw [four, zero, mode.1, mode.2, counts.1, counts.2]
  · obtain ⟨hk, hm, hn, hw, hu, hi, hl, _⟩ := qualifyOf_some_iff.mp h
    have action := flagOf_some_iff.mp hi
    refine ⟨(faultKindOf_some_iff.mp hk).symm, (modeOf_some_iff.mp hm).symm, (within_some_iff.mp hn).1,
      (within_some_iff.mp hw).1, below_some_iff.mp hu, ?_, levelOf_some hl⟩
    cases hs : st.isolate <;> rw [hs] at action <;> simp at action ⊢ <;> bv_omega

/-! ## STORE WRITE (R152, R176) -/

section StoreWriteOperands

variable {a c0 c1 c2 c3 : Byte}

theorem contentsOf_operator {r : RecordId} (h : r.val < 8) : contentsOf r c0 c1 c2 c3 =
    if c0.toNat < 64 ∧ 1 ≤ c3.toNat ∧ c3.toNat ≤ 32 then
      some (.operator ⟨c0.extractLsb' 0 6, (c1 ++ c2 : BitVec 16), c3.toNat⟩)
    else none := if_pos h

theorem contentsOf_nodeClass {r : RecordId} (h : 8 ≤ r.val) : contentsOf r c0 c1 c2 c3 =
    if 1 ≤ c2.toNat ∧ c2.toNat ≤ 4 ∧ c3.toNat ≤ 80 then
      some (.nodeClass ⟨(c0 ++ c1 : BitVec 16), c2.toNat, c3.toNat⟩)
    else none := if_neg (Nat.not_lt.mpr h)

theorem storeWriteOf_some_iff {r : RecordId} {c : Contents} : storeWriteOf a c0 c1 c2 c3 = some (r, c) ↔
    below 16 a = some r ∧ contentsOf r c0 c1 c2 c3 = some c := by
  unfold storeWriteOf
  rcases below 16 a with _ | r'
  · simp
  · dsimp only
    rw [Option.map_eq_some_iff, Option.some.injEq]
    constructor
    · rintro ⟨x, h, e⟩
      obtain ⟨rfl, rfl⟩ := Prod.mk.inj e
      exact ⟨rfl, h⟩
    · rintro ⟨rfl, h⟩
      exact ⟨c, h, rfl⟩

theorem storeWriteOf_none_iff : storeWriteOf a c0 c1 c2 c3 = none ↔
    16 ≤ a.toNat ∨ ∃ r : RecordId, r.val = a.toNat ∧ contentsOf r c0 c1 c2 c3 = none := by
  rw [← below_none_iff]
  unfold storeWriteOf
  rcases h : below 16 a with _ | r
  · simp
  · simp only [Option.map_eq_none_iff, reduceCtorEq, false_or, ← below_some_iff, h, Option.some.injEq]
    exact ⟨fun e => ⟨r, rfl, e⟩, fun ⟨_, h, e⟩ => h ▸ e⟩

theorem extract_high (x y : Byte) : (x ++ y).extractLsb' 8 8 = x := by
  ext i hi
  rw [BitVec.getElem_extractLsb', BitVec.getLsbD_append]
  simp [BitVec.getLsbD_eq_getElem hi]

theorem extract_low (x y : Byte) : (x ++ y).extractLsb' 0 8 = y := by
  ext i hi
  rw [BitVec.getElem_extractLsb', BitVec.getLsbD_append]
  simp [hi]

/-- The two bytes of a band set read and written. -/
theorem halfBytes_append (x y : Byte) : halfBytes (x ++ y : BitVec 16) = [x, y] :=
  congrArg₂ (fun a b => [a, b]) (extract_high x y) (extract_low x y)

theorem u8_toNat (x : Byte) : u8 x.toNat = [x] := by simp [u8]

theorem contentsOf_bytes {r : RecordId} {c : Contents} (h : contentsOf r c0 c1 c2 c3 = some c) :
    c.bytes = [c0, c1, c2, c3] ∧ (r.val < 8 → ∃ o, c = .operator o) ∧ (8 ≤ r.val → ∃ n, c = .nodeClass n) := by
  rcases Nat.lt_or_ge r.val 8 with low | high
  · rw [contentsOf_operator low] at h
    split at h
    · next range =>
      obtain rfl := Option.some.inj h
      have ports : (c0.extractLsb' 0 6).toNat = c0.toNat := by
        simp
        omega
      refine ⟨?_, fun _ => ⟨_, rfl⟩, fun high => absurd high (by omega)⟩
      unfold Contents.bytes
      dsimp only
      rw [ports, u8_toNat, halfBytes_append, u8_toNat]
      rfl
    · exact nomatch h
  · rw [contentsOf_nodeClass high] at h
    split at h
    · obtain rfl := Option.some.inj h
      refine ⟨?_, fun low => absurd low (by omega), fun _ => ⟨_, rfl⟩⟩
      unfold Contents.bytes
      dsimp only
      rw [halfBytes_append, u8_toNat, u8_toNat]
      rfl
    · exact nomatch h

end StoreWriteOperands

theorem store_write_ranges : Claims.StoreWriteRanges := by
  refine fun a c0 c1 c2 c3 => ⟨?_, fun r c h => ?_⟩
  · rw [storeWriteOf_none_iff]
    rcases Nat.lt_or_ge a.toNat 16 with low | high
    · have only : (∃ r : RecordId, r.val = a.toNat ∧ contentsOf r c0 c1 c2 c3 = none) ↔
          contentsOf ⟨a.toNat, low⟩ c0 c1 c2 c3 = none :=
        ⟨fun ⟨r, h, e⟩ => by rwa [show r = ⟨a.toNat, low⟩ from Fin.ext h] at e, fun e => ⟨_, rfl, e⟩⟩
      rw [only]
      rcases Nat.lt_or_ge a.toNat 8 with op | cl
      · rw [contentsOf_operator op]
        split <;> simp <;> omega
      · rw [contentsOf_nodeClass cl]
        split <;> simp <;> omega
    · exact iff_of_true (.inl high) (.inl high)
  · obtain ⟨hr, hc⟩ := storeWriteOf_some_iff.mp h
    exact ⟨below_some_iff.mp hr, contentsOf_bytes hc⟩

/-! ## SWEEP ORDER (R81) -/

/-- A list of numbers below 32 and the spokes that they name. -/
theorem readSpokes_some_iff {l : List Byte} {m : List SpokeId} :
    readAll (below 32) l = some m ↔ l.map BitVec.toNat = m.map Fin.val := by
  rw [readAll_some_iff]
  induction l generalizing m with
  | nil => cases m <;> simp
  | cons b l ih =>
    rcases m with _ | ⟨i, m⟩
    · simp
    · simp only [List.map_cons, List.cons.injEq, ih, below_some_iff]
      rw [eq_comm]

theorem nodup_of_readSpokes {l : List Byte} {m : List SpokeId} (h : readAll (below 32) l = some m) : m.Nodup ↔ l.Nodup := by
  have named := readSpokes_some_iff.mp h
  rw [← List.nodup_map_iff Fin.val_injective, ← named,
    List.nodup_map_iff (fun x y e => BitVec.eq_of_toNat_eq e)]

theorem length_of_readSpokes {l : List Byte} {m : List SpokeId} (h : readAll (below 32) l = some m) :
    m.length = l.length := by
  simpa using (congrArg List.length (readSpokes_some_iff.mp h)).symm

theorem orderOf_some_iff {l : List Byte} {o : Vector SpokeId 32} : orderOf l = some o ↔
    readAll (below 32) l = some o.toList ∧ o.toList.Nodup := by
  unfold orderOf
  rcases readAll (below 32) l with _ | m
  · simp
  · dsimp only
    rw [Option.some.injEq]
    split
    · next h =>
      rw [Option.some.injEq]
      constructor
      · rintro rfl
        exact ⟨rfl, h.2⟩
      · rintro ⟨rfl, _⟩
        rfl
    · next h =>
      refine iff_of_false nofun ?_
      rintro ⟨rfl, nodup⟩
      exact h ⟨by simp, nodup⟩

theorem orderOf_none_iff {l : List Byte} (len : l.length = 32) :
    orderOf l = none ↔ ¬ ((∀ b ∈ l, b.toNat < 32) ∧ l.Nodup) := by
  unfold orderOf
  rcases h : readAll (below 32) l with _ | m
  · obtain ⟨b, hb, out⟩ := readAll_none_iff.mp h
    refine iff_of_true rfl fun ⟨inside, _⟩ => ?_
    have := below_none_iff.mp out
    have := inside b hb
    omega
  · have inside : ∀ b ∈ l, b.toNat < 32 := by
      intro b hb
      have named : b.toNat ∈ m.map Fin.val := readSpokes_some_iff.mp h ▸ List.mem_map_of_mem hb
      obtain ⟨i, _, e⟩ := List.mem_map.mp named
      omega
    have full : m.length = 32 := (length_of_readSpokes h).trans len
    dsimp only
    rw [← nodup_of_readSpokes h]
    split
    · next x => simpa using ⟨inside, x.2⟩
    · next x => simpa using fun _ nodup => x ⟨full, nodup⟩

theorem order_is_permutation : Claims.OrderIsPermutation := fun _ len => orderOf_none_iff len

theorem orderOf_places {l : List Byte} {o : Vector SpokeId 32} (h : orderOf l = some o) (n : Fin 32) :
    (o[n]).val = (l.getD n.val 0#8).toNat := by
  have named := readSpokes_some_iff.mp (orderOf_some_iff.mp h).1
  have len : l.length = 32 := by simpa using (length_of_readSpokes (orderOf_some_iff.mp h).1).symm
  have place := congrArg (fun m : List Nat => m[n.val]?) named
  have hn : n.val < l.length := by omega
  simp [hn] at place
  simp [hn, place]

end Sys2Proof.Machine
end

section
/-! SUPPORT. The commands on feeds, the Cutover Engine, groups, captures, the qualifier and the alarms: what each does, branch
by branch, and its answer. -/

namespace Sys2Proof.Machine

/-! ## FEED SET (R8) -/

section FeedSetCommand

variable {fd st op bd lv : Byte} {s : State} {f : FeedId} {r : FeedRec}

theorem feedSet_range (h : feedSetOf fd st op bd lv = none) : s.feedSet fd st op bd lv = s.refuse .range := by
  unfold State.feedSet
  rw [h]

theorem feedSet_eq (h : feedSetOf fd st op bd lv = some (f, r)) : s.feedSet fd st op bd lv =
    if s.feedBound f && !s.feeds[f].mutesOnly r then s.refuse .inUse
    else if r.state != .unused && !s.permits f r then s.refuse .entitlement
    else { s with feeds := s.feeds.set f r }.doneWith := by
  unfold State.feedSet
  rw [h]

end FeedSetCommand

theorem feed_set_acts : Claims.FeedSetActs := by
  intro tag fd st op bd lv s t hc
  refine ⟨fun out => answers_of s rfl hc rfl (feedSet_range out), fun f r read => ?_⟩
  have act := feedSet_eq (s := t) read
  refine ⟨fun bound other => answers_of s rfl hc rfl (act.trans (if_pos ?_)), fun free used barred =>
    answers_of s rfl hc rfl (act.trans ((if_neg ?_).trans (if_pos ?_))), fun free passes =>
    answers_of s rfl hc rfl (act.trans ((if_neg ?_).trans (if_neg ?_)))⟩
  · rw [bound, other]
    rfl
  · rcases free with h | h <;> rw [h] <;> simp
  · simp [used, barred]
  · rcases free with h | h <;> rw [h] <;> simp
  · rcases passes with h | h <;> rw [h] <;> simp

theorem feedBound_iff (s : State) (f : FeedId) :
    s.feedBound f = true ↔ ∃ k i, Bound s k ∧ Carries s.slots[k].plan i f := by
  unfold State.feedBound
  rw [List.any_eq_true]
  constructor
  · rintro ⟨k, _, h⟩
    rw [Bool.and_eq_true, Engine.holds_iff, decide_eq_true_eq, Plan.fanout_pos] at h
    obtain ⟨bound, i, carries⟩ := h
    exact ⟨k, i, bound, carries⟩
  · rintro ⟨k, i, bound, carries⟩
    refine ⟨k, List.mem_finRange k, ?_⟩
    rw [Bool.and_eq_true, Engine.holds_iff, decide_eq_true_eq, Plan.fanout_pos]
    exact ⟨bound, i, carries⟩

theorem mutesOnly_iff (old new : FeedRec) : old.mutesOnly new = true ↔ new = old ∨ (old.state ≠ .unused ∧
    new.state ≠ .unused ∧ new.operator = old.operator ∧ new.band = old.band ∧ new.level = old.level) := by
  unfold FeedRec.mutesOnly
  cases old
  cases new
  simp
  tauto

theorem feed_checks : Claims.FeedChecks := fun s f old new =>
  ⟨feedBound_iff s f, State.permits_iff s f new, mutesOnly_iff old new⟩

/-- Settles O24. -/
theorem feedSetWrites : Obligations.FeedSetWrites := ⟨feed_set_acts, feed_set_ranges, feed_checks⟩

/-! ## BANK RELEASE (R80) -/

theorem hasFollowers_iff (e : Engine) (bank : Bool) :
    e.hasFollowers bank = true ↔ if bank then 0 < e.line.val else e.line.val < 32 := by
  unfold Engine.hasFollowers
  cases bank <;> simp

/-- A bank in use: bound, with followers (R78, R80). -/
theorem bankUsed_iff (e : Engine) (bank : Bool) : ((e.binding bank).isSome = true ∧ e.hasFollowers bank = true) ↔
    e.binding bank ≠ none ∧ if bank then 0 < e.line.val else e.line.val < 32 := by
  rw [hasFollowers_iff, Option.isSome_iff_ne_none]

theorem bankRelease_eq {s : State} {a : Byte} {bank : Bool} (h : bankOf a = some bank) : s.bankRelease a =
    if s.engine.state ≠ .idle then s.refuse .busy
    else if (s.engine.binding bank).isSome ∧ s.engine.hasFollowers bank then s.refuse .inUse
    else (s.mapEngine (·.bind bank none)).doneWith := by
  unfold State.bankRelease
  rw [h]

theorem bankRelease_range {s : State} {a : Byte} (h : 2 ≤ a.toNat) : s.bankRelease a = s.refuse .range := by
  unfold State.bankRelease
  rw [show bankOf a = none from flagOf_none_iff.mpr h]

theorem bind_binding (e : Engine) (bank : Bool) (v : Option SlotId) :
    (e.bind bank v).binding bank = v ∧ (e.bind bank v).binding (!bank) = e.binding (!bank) ∧
    (e.bind bank v).line = e.line ∧ (e.bind bank v).order = e.order ∧ (e.bind bank v).state = e.state ∧
    (e.bind bank v).params = e.params := by
  cases bank <;> exact ⟨rfl, rfl, rfl, rfl, rfl, rfl⟩

/-- Settles O32. -/
theorem bankReleaseUnbinds : Obligations.BankReleaseUnbinds := by
  intro tag a s t hc
  refine ⟨fun out => answers_of s rfl hc rfl (bankRelease_range out), fun bank read => ?_⟩
  intro followed
  have act := bankRelease_eq (s := t) read
  refine ⟨fun busy => answers_of s rfl hc rfl (act.trans (if_pos busy)), fun idle bound used => ?_, fun idle free => ?_⟩
  · exact answers_of s rfl hc rfl
      (act.trans ((if_neg (not_not.mpr idle)).trans (if_pos ((bankUsed_iff _ _).mpr ⟨bound, used⟩))))
  · have unused : ¬((t.engine.binding bank).isSome = true ∧ t.engine.hasFollowers bank = true) := by
      rw [bankUsed_iff]
      exact fun ⟨bound, used⟩ => free.elim bound fun n => n used
    obtain ⟨bound, other, line, order, state, params⟩ := bind_binding t.engine bank none
    exact ⟨_, answers_of s rfl hc rfl (act.trans ((if_neg (not_not.mpr idle)).trans (if_neg unused))), rfl, bound, other,
      line, order, state.trans idle, params⟩

/-! ## SWEEP ORDER and FOLD (R81, R88) -/

theorem sweepOrder_range {s : State} {l : List Byte} (h : orderOf l = none) : s.sweepOrder l = s.refuse .range := by
  unfold State.sweepOrder
  rw [h]

theorem sweepOrder_eq {s : State} {l : List Byte} {o : Vector SpokeId 32} (h : orderOf l = some o) : s.sweepOrder l =
    if s.engine.state ≠ .idle then s.refuse .busy
    else if 0 < s.engine.line.val ∧ s.engine.line.val < 32 then s.refuse .inUse
    else (s.mapEngine fun e => { e with order := o }).doneWith := by
  unfold State.sweepOrder
  rw [h]

theorem order_and_fold_act : Claims.OrderAndFoldAct := by
  refine fun tag l s t => ⟨fun hc len => ?_, fun hc => ?_⟩
  · have wf : (Instr.sweepOrder tag l).wf = true := by simp [Instr.wf, len]
    refine ⟨fun out => answers_of s rfl hc wf (sweepOrder_range out), fun o read => ?_⟩
    have act := sweepOrder_eq (s := t) read
    refine ⟨fun busy => answers_of s rfl hc wf (act.trans (if_pos busy)), fun idle lo hi => ?_, fun idle ends => ?_⟩
    · exact answers_of s rfl hc wf (act.trans ((if_neg (not_not.mpr idle)).trans (if_pos ⟨lo, hi⟩)))
    · exact ⟨(orderOf_some_iff.mp read).2, orderOf_places read,
        answers_of s rfl hc wf (act.trans ((if_neg (not_not.mpr idle)).trans (if_neg (by omega))))⟩
  · have act : t.foldBanks = if t.engine.state ≠ .idle then t.refuse .busy
      else if t.engine.line.val < 32 then t.refuse .wrongState else (t.mapEngine (·.fold)).doneWith := rfl
    refine ⟨fun busy => answers_of s rfl hc rfl (act.trans (if_pos busy)), fun idle low => ?_, fun idle full => ?_⟩
    · exact answers_of s rfl hc rfl (act.trans ((if_neg (not_not.mpr idle)).trans (if_pos low)))
    · exact answers_of s rfl hc rfl (act.trans ((if_neg (not_not.mpr idle)).trans (if_neg (by omega))))

/-- Settles O33. -/
theorem orderAndFold : Obligations.OrderAndFold := ⟨order_and_fold_act, order_is_permutation⟩

/-! ## CUTOVER and HALT (R82, R87) -/

section CutoverCommand

variable {s : State} {a b c d : Byte} {p : Params}

theorem cutover_range (h : paramsOf a b c d = none) : s.cutover a b c d = s.refuse .range := by
  unfold State.cutover
  rw [h]

theorem cutover_eq (h : paramsOf a b c d = some p) : s.cutover a b c d =
    if s.engine.state ≠ .idle then s.refuse .busy
    else if p.target = s.engine.line then ⟨.done, (s.acceptCutover p).engine.standing, s.acceptCutover p⟩
    else if s.engine.neededBound p.target then ⟨.started, (s.startCutover p).engine.standing, s.startCutover p⟩
    else s.refuse .wrongState := by
  unfold State.cutover
  rw [h]

end CutoverCommand

theorem cutover_starts : Claims.CutoverStarts := by
  intro tag a b c d s t hc
  refine ⟨fun out => answers_of s rfl hc rfl (cutover_range ?_), fun p read => ?_⟩
  · rw [paramsOf_none_iff, below_none_iff, within_none_iff, below_none_iff, flagOf_none_iff]
    omega
  · have act := cutover_eq (s := t) read
    refine ⟨fun busy => answers_of s rfl hc rfl (act.trans (if_pos busy)), fun idle there => ?_, fun idle away =>
      ⟨fun ahead unbound => ?_, fun behind unbound => ?_, fun ahead behind => ?_⟩⟩
    · refine answers_of s rfl hc rfl (act.trans ((if_neg (not_not.mpr idle)).trans ((if_pos there).trans ?_)))
      have standing : (t.acceptCutover p).engine.standing = u8 0 ++ u8 t.engine.line := by
        show u8 t.engine.state.code ++ u8 t.engine.line = _
        rw [idle]
        rfl
      rw [standing]
      rfl
    · refine answers_of s rfl hc rfl
        (act.trans ((if_neg (not_not.mpr idle)).trans ((if_neg away).trans (if_neg ?_))))
      rw [(neededBound_not_iff away).mpr (.inl ⟨ahead, unbound⟩)]
      decide
    · refine answers_of s rfl hc rfl
        (act.trans ((if_neg (not_not.mpr idle)).trans ((if_neg away).trans (if_neg ?_))))
      rw [(neededBound_not_iff away).mpr (.inr ⟨behind, unbound⟩)]
      decide
    · have bound : t.engine.neededBound p.target = true := by
        refine (neededBound_iff away).mpr ?_
        rcases lt_or_gt_of_ne away.symm with h | h
        · exact .inl ⟨h, ahead h⟩
        · exact .inr ⟨h, behind h⟩
      exact ⟨t.startCutover p, answers_of s rfl hc rfl
        (act.trans ((if_neg (not_not.mpr idle)).trans ((if_neg away).trans (if_pos bound)))), rfl, rfl⟩

theorem halt_eq (s : State) : s.halt =
    match s.engine.state with
    | .idle => s.refuse .wrongState
    | .halting => s.doneWith
    | .stepping =>
      if s.engine.stepInHand then (s.mapEngine fun e => { e with state := .halting }).doneWith
      else ((s.mapEngine fun e => { e with state := .halting }).endCutover true).doneWith := by
  unfold State.halt
  cases s.engine.state <;> rfl

theorem stepInHand_iff (e : Engine) : e.stepInHand = true ↔ ∃ c, e.current = some c ∧ c.complete = false := by
  unfold Engine.stepInHand
  cases e.current <;> simp

theorem halt_stops_cutover : Claims.HaltStopsCutover := by
  intro tag s t hc
  refine ⟨fun idle => ?_, fun halting => ?_, fun stepping hand => ?_, fun p stepping complete hp => ?_⟩
  · exact answers_of s rfl hc rfl (by rw [halt_eq, idle]; rfl)
  · exact answers_of s rfl hc rfl (by rw [halt_eq, halting]; rfl)
  · exact answers_of s rfl hc rfl (by
      rw [halt_eq, stepping]
      exact if_pos ((stepInHand_iff _).mpr hand))
  · have free : ¬ t.engine.stepInHand = true := by
      rw [stepInHand_iff]
      rintro ⟨c, h, open_⟩
      rw [complete c h] at open_
      exact nomatch open_
    have ended : (t.mapEngine fun e => { e with state := .halting }).endCutover true = _ := endCutover_eq hp true
    exact answers_of s rfl hc rfl (by
      rw [halt_eq, stepping]
      exact (if_neg free).trans (congrArg State.doneWith ended))

/-- Settles O59. -/
theorem cutoverAndHalt : Obligations.CutoverAndHalt := ⟨cutover_starts, cutover_ranges, halt_stops_cutover⟩

/-! ## WATCH SET and WATCH OFF (R102, R103) -/

section WatchSet

variable {m : BitVec 32} {h l : BitVec 24} {d p tg iv st : Byte}

theorem groupOf_some {r : Option Relief} (order : l.toNat < h.toNat) (top : h.toNat ≤ 2097120) (dwell : 0 < d.toNat)
    (relief : reliefOf p tg iv st = some r) :
    groupOf m h l d p tg iv st = some ⟨m, h.toNat, l.toNat, d.toNat, r, .calm, 0, .none⟩ := by
  unfold groupOf maxThreshold
  rw [within_eq_some (Nat.zero_le _) top, within_eq_some (Nat.zero_le _) (by omega), within_eq_some dwell (by omega), relief]
  exact if_pos order

theorem groupOf_none (out : h.toNat ≤ l.toNat ∨ 2097120 < h.toNat ∨ d.toNat = 0 ∨ reliefOf p tg iv st = none) :
    groupOf m h l d p tg iv st = none := by
  unfold groupOf
  rcases high : within 0 maxThreshold h.toNat with _ | x
  · rfl
  rcases low : within 0 maxThreshold l.toNat with _ | y
  · rfl
  rcases dwell : within 1 255 d.toNat with _ | n
  · rfl
  rcases relief : reliefOf p tg iv st with _ | r
  · rfl
  obtain ⟨rfl, _, top⟩ := within_some_iff.mp high
  obtain ⟨rfl, _⟩ := within_some_iff.mp low
  obtain ⟨rfl, some_, _⟩ := within_some_iff.mp dwell
  rw [relief] at out
  unfold maxThreshold at top
  rcases out with out | out | out | out
  · exact if_neg (Nat.not_lt.mpr out)
  · omega
  · omega
  · exact nomatch out

end WatchSet

theorem watch_set_acts : Claims.WatchSetActs := by
  refine fun tag b m h l d p tg iv st g s t hb => ⟨fun hc => ⟨fun out => ?_, fun r order top dwell relief => ?_⟩, fun hc => ?_⟩
  · refine answers_of s rfl hc rfl ?_
    unfold State.watchSet
    rw [hb, groupOf_none out]
    rfl
  · refine ⟨(t.clearGroupTurn g).mapGroup g fun _ => _, answers_of s rfl hc rfl ?_, rfl, rfl⟩
    unfold State.watchSet
    rw [hb, groupOf_some order top dwell relief]
    rfl
  · refine ⟨(t.clearGroupTurn g).mapGroup g fun r => { r with state := .off, remaining := 0 },
      answers_of s rfl hc rfl ?_, rfl, rfl⟩
    unfold State.watchOff
    rw [hb]
    rfl

/-- Settles O34. -/
theorem watchSetAndOff : Obligations.WatchSetAndOff := ⟨watch_set_acts, relief_ranges⟩

/-! ## CAPTURE and CAPTURE STOP (R106, R111) -/

section CaptureCommand

variable {s : State} {a b c d : Byte} {iv : Half}

theorem captureRequest_range (h : targetOf a b c = none ∨ captureModeOf d iv = none) :
    s.captureRequest a b c d iv = s.refuse .range := by
  unfold State.captureRequest
  rcases h with h | h
  · rw [h]
  · rw [h]
    cases targetOf a b c <;> rfl

theorem captureRequest_eq {x : Target} {m : Option Nat} (target : targetOf a b c = some x)
    (mode : captureModeOf d iv = some m) : s.captureRequest a b c d iv =
    if s.barred x then s.refuse .locked
    else
      match m with
      | some n => (s.mapCapture fun u => { u with continuous := some ⟨x, n, 0⟩ }).captureReply
      | none =>
        if s.capture.singleBusy x then s.refuse .busy
        else (s.mapCapture fun u => { u with single := some x }).captureReply := by
  unfold State.captureRequest
  split
  · next x' m' target' mode' =>
    obtain rfl := Option.some.inj (target.symm.trans target')
    obtain rfl := Option.some.inj (mode.symm.trans mode')
    cases m <;> rfl
  · next absent => exact (absent x m target mode).elim

end CaptureCommand

theorem singleBusy_iff (u : Capture) (x : Target) : u.singleBusy x = true ↔
    u.single ≠ none ∨ ∃ q, u.continuous = some q ∧ q.target ≠ x := by
  unfold Capture.singleBusy
  rw [Bool.or_eq_true, Option.isSome_iff_ne_none]
  cases u.continuous <;> simp

/-- The unit's state and both requests, as CAPTURE answers them. -/
theorem standing_eq (u : Capture) : u.standing =
    u8 (if u.collection.isSome then 1 else if u.single.isSome ∨ u.continuous.isSome then 2 else 0) ++
      (match u.single with
        | some x => 1#8 :: (u8 x.spoke ++ u8 x.pos ++ u8 (if x.kind = .raw then 1 else 0))
        | none => [0, 0, 0, 0]) ++
      (match u.continuous with
        | some q => 1#8 :: (u8 q.target.spoke ++ u8 q.target.pos ++ u8 (if q.target.kind = .raw then 1 else 0)) ++
            u16 q.interval ++ u16 q.next
        | none => [0, 0, 0, 0, 0, 0, 0, 0]) := by
  have kind (k : CaptureKind) : k.code = if k = .raw then 1 else 0 := by cases k <;> rfl
  unfold Capture.standing Capture.stateCode singleBytes continuousBytes Target.bytes
  simp only [kind, Bool.or_eq_true]
  cases u.single <;> cases u.continuous <;> rfl

theorem capture_acts : Claims.CaptureActs := by
  intro tag a b c d iv s t target standing
  have answer (u : Capture) : u.standing = standing u := standing_eq u
  refine ⟨fun hc => ⟨fun out => answers_of s rfl hc rfl (captureRequest_range out), fun x m read mode => ?_⟩, fun hc =>
    ⟨_, answers_of s rfl hc rfl rfl, rfl, rfl⟩⟩
  have act := captureRequest_eq (s := t) read mode
  refine ⟨fun raw locked => answers_of s rfl hc rfl (act.trans (if_pos ((barred_iff t x).mpr ⟨raw, locked⟩))),
    fun open_ => ?_⟩
  have free : ¬ t.barred x = true := by
    rw [barred_iff]
    rintro ⟨raw, locked⟩
    rcases open_ with h | h
    · rw [h] at raw
      exact nomatch raw
    · rw [h] at locked
      exact nomatch locked
  refine ⟨fun single busy => ?_, fun single idle => ?_, fun n continuous => ?_⟩
  · subst single
    exact answers_of s rfl hc rfl (act.trans ((if_neg free).trans (if_pos ((singleBusy_iff _ _).mpr busy))))
  · subst single
    refine ⟨_, rfl, ?_⟩
    rw [← answer]
    exact answers_of s rfl hc rfl (act.trans ((if_neg free).trans (if_neg fun h => idle ((singleBusy_iff _ _).mp h))))
  · subst continuous
    refine ⟨_, rfl, ?_⟩
    rw [← answer]
    exact answers_of s rfl hc rfl (act.trans (if_neg free))

/-- Settles O35. -/
theorem captureRequestsAndStop : Obligations.CaptureRequestsAndStop := ⟨capture_acts, capture_ranges⟩

/-! ## QUALIFY (R126) -/

theorem qualify_acts : Claims.QualifyActs := by
  intro tag a b c d e f lv s t hc
  refine ⟨fun out => answers_of s rfl hc rfl ?_, fun ha hb => ?_, fun k st read => ?_⟩
  · unfold State.qualifySet
    rw [out]
    rfl
  · exact ((qualify_ranges a b c d e f lv).1).mpr (by tauto)
  · refine ⟨{ t with
        settings := t.settings.set (kindIndex k) st
        quals := mapTable (fun row : Vector QualRec 5 => row.set (kindIndex k) .reset) t.quals },
      answers_of s rfl hc rfl ?_, rfl, fun i => ?_, fun i j n => ?_⟩
    · unfold State.qualifySet
      rw [read]
      rfl
    · unfold State.qual
      rw [mapTable_get, set_same]
      rfl
    · unfold State.qual
      rw [mapTable_get, set_other _ _ (kindIndex_ne n)]

/-- Settles O36. -/
theorem qualifySetsKind : Obligations.QualifySetsKind := ⟨qualify_acts, qualify_ranges⟩

/-! ## The alarm commands (R136 to R139) -/

/-- Settles O37. -/
theorem alarmCommandsAct : Obligations.AlarmCommandsAct := by
  intro tag b x y s t
  refine ⟨fun hc => ⟨fun clash => ?_, fun apart => ?_⟩, fun hc => ⟨fun clash => ?_, fun apart => ?_⟩,
    fun hc => ⟨fun out => ?_, fun on => ?_, fun off => ?_⟩, fun hc => ⟨fun out => ?_, fun c read => ⟨fun free => ?_, fun busy => ?_⟩⟩⟩
  · exact answers_of s rfl hc rfl (if_pos clash)
  · exact ⟨_, answers_of s rfl hc rfl (if_neg (not_not.mpr apart)), rfl, fun c => tabulate_get _ c⟩
  · exact answers_of s rfl hc rfl (if_pos clash)
  · exact ⟨_, answers_of s rfl hc rfl (if_neg (not_not.mpr apart)), rfl, fun c => tabulate_get _ c⟩
  · refine answers_of s rfl hc rfl ?_
    unfold State.alarmTrack
    rw [flagOf_none_iff.mpr out]
    rfl
  · subst on
    exact answers_of s rfl hc rfl rfl
  · subst off
    exact ⟨_, answers_of s rfl hc rfl rfl, rfl, fun c => mapTable_get _ _ c⟩
  · refine answers_of s rfl hc rfl ?_
    unfold State.alarmDone
    rw [below_eq_none out]
    rfl
  · refine answers_of s rfl hc rfl ?_
    unfold State.alarmDone
    rw [read]
    exact if_neg (by rw [free]; decide)
  · refine answers_of s rfl hc rfl ?_
    unfold State.alarmDone
    rw [read]
    exact if_pos busy

end Sys2Proof.Machine
end

section
/-! SUPPORT. The commands on plan slots and trim streaming (R55 to R62, R68 to R74). -/

namespace Sys2Proof.Machine

/-! ## PLAN OPEN, PLAN EDIT, PLAN CLOSE (R56, R57, R62) -/

section PlanSlots

variable {s : State} {b : Byte} {k : SlotId}

theorem planOpen_bound (hb : below 8 b = some k) (h : s.engine.holds k = true) : s.planOpen b = s.refuse .inUse := by
  unfold State.planOpen
  rw [hb]
  exact if_pos h

theorem planOpen_unbound (hb : below 8 b = some k) (h : s.engine.holds k = false) :
    s.planOpen b = ⟨.done, [1], (s.setSlot k ⟨.loading, Plan.empty, none⟩).clearPointerAt k⟩ := by
  unfold State.planOpen
  rw [hb]
  exact (if_neg (Bool.eq_false_iff.mp h)).trans replacedSlot_slotReply

theorem planEdit_early (hb : below 8 b = some k) (h : s.slots[k].state = .empty ∨ s.slots[k].state = .loading) :
    s.planEdit b = s.refuse .wrongState := by
  unfold State.planEdit
  rw [hb]
  dsimp only
  rcases h with h | h <;> rw [h]

theorem planEdit_kept (hb : below 8 b = some k) (h : s.slots[k].state = .ready ∨ s.slots[k].state = .rejected) :
    s.planEdit b = if s.engine.holds k then s.refuse .inUse
      else ((s.setSlot k ⟨.loading, s.slots[k].plan, none⟩).clearPointerAt k).slotReply k := by
  unfold State.planEdit
  rw [hb]
  dsimp only
  rcases h with h | h <;> rw [h]

end PlanSlots

theorem plan_open_and_edit : Claims.PlanOpenAndEdit := by
  refine fun tag b k s t hb => ⟨fun hc => ⟨fun bound => ?_, fun free => ?_⟩, fun hc => ⟨fun early => ?_,
    fun kept bound => ?_, fun kept free => ?_⟩⟩
  · exact answers_of s rfl hc rfl (planOpen_bound hb bound)
  · exact ⟨_, answers_of s rfl hc rfl (planOpen_unbound hb free), replacedSlot_frame, replacedSlot_clears_named,
      replacedSlot_keeps_other⟩
  · exact answers_of s rfl hc rfl (planEdit_early hb early)
  · exact answers_of s rfl hc rfl ((planEdit_kept hb kept).trans (if_pos bound))
  · exact ⟨_, answers_of s rfl hc rfl ((planEdit_kept hb kept).trans
      ((if_neg (Bool.eq_false_iff.mp free)).trans replacedSlot_slotReply)), replacedSlot_frame, replacedSlot_clears_named,
      replacedSlot_keeps_other⟩

theorem setSlot_slotReply (s : State) (k : SlotId) (v : PlanSlot) :
    (s.setSlot k v).slotReply k = ⟨.done, u8 v.state.code, s.setSlot k v⟩ := by
  simp [State.slotReply, State.setSlot]

section PlanClose

variable {s : State} {b : Byte} {k : SlotId}

theorem planClose_wrong (hb : below 8 b = some k) (other : s.slots[k].state ≠ .loading) :
    s.planClose b = s.refuse .wrongState := by
  unfold State.planClose
  rw [hb]
  exact if_neg other

theorem planClose_ready (hb : below 8 b = some k) (loading : s.slots[k].state = .loading)
    (passes : s.admission true s.slots[k].plan = none) :
    s.planClose b = ⟨.done, [2], s.setSlot k ⟨.ready, s.slots[k].plan, none⟩⟩ := by
  unfold State.planClose
  rw [hb]
  refine (if_pos loading).trans ?_
  rw [passes]
  exact setSlot_slotReply _ _ _

theorem planClose_rejected {f : Failure} (hb : below 8 b = some k) (loading : s.slots[k].state = .loading)
    (fails : s.admission true s.slots[k].plan = some f) :
    s.planClose b = ⟨.done, 3#8 :: f.bytes, s.setSlot k ⟨.rejected, s.slots[k].plan, some f⟩⟩ := by
  unfold State.planClose
  rw [hb]
  refine (if_pos loading).trans ?_
  rw [fails]
  rfl

end PlanClose

theorem plan_close_admits : Claims.PlanCloseAdmits := fun _ _ _ s _ hb hc =>
  ⟨fun other => answers_of s rfl hc rfl (planClose_wrong hb other),
    fun loading passes => answers_of s rfl hc rfl (planClose_ready hb loading passes),
    fun _ loading fails => answers_of s rfl hc rfl (planClose_rejected hb loading fails)⟩

/-- Settles O57. -/
theorem planOpenEditClose : Obligations.PlanOpenEditClose := ⟨plan_open_and_edit, plan_close_admits⟩

/-! ## PLAN CELL and PLAN EXPECT (R58, R59) -/

theorem writeCell_at (p : Plan) (w : SpokeId × CellPos × Option Cell) (i : SpokeId) : (p.writeCell w)[i] =
    if i = w.1 then { p[w.1] with cells := p[w.1].cells.set w.2.1 w.2.2 } else p[i] := update_get _ _ _ _

theorem writeExpect_at (p : Plan) (w : SpokeId × Option NodeClass) (i : SpokeId) : (p.writeExpect w)[i] =
    if i = w.1 then { p[w.1] with expect := w.2 } else p[i] := update_get _ _ _ _

theorem writeCell_expect (p : Plan) (w : SpokeId × CellPos × Option Cell) (i : SpokeId) :
    (p.writeCell w)[i].expect = p[i].expect := by
  rw [writeCell_at]
  split
  · next h => rw [h]
  · rfl

theorem writeCell_cell (p : Plan) (w : SpokeId × CellPos × Option Cell) (i : SpokeId) (c : CellPos) :
    (p.writeCell w)[i].cells[c] = if w.1 = i ∧ w.2.1 = c then w.2.2 else p[i].cells[c] := by
  rw [writeCell_at]
  by_cases hi : i = w.1
  · subst hi
    rw [if_pos rfl, set_get]
    simp only [true_and, eq_comm]
  · rw [if_neg hi, if_neg (fun h => hi h.1.symm)]

theorem writeExpect_cells (p : Plan) (w : SpokeId × Option NodeClass) (i : SpokeId) :
    (p.writeExpect w)[i].cells = p[i].cells := by
  rw [writeExpect_at]
  split
  · next h => rw [h]
  · rfl

theorem writeExpect_expect (p : Plan) (w : SpokeId × Option NodeClass) (i : SpokeId) :
    (p.writeExpect w)[i].expect = if w.1 = i then w.2 else p[i].expect := by
  rw [writeExpect_at]
  by_cases hi : i = w.1
  · rw [if_pos hi, if_pos hi.symm]
  · rw [if_neg hi, if_neg (Ne.symm hi)]

/-- Writes in message order leave what none of them touches. -/
theorem foldl_untouched {α β γ : Type} {write : β → α → β} {read : β → γ} {l : List α}
    (h : ∀ w ∈ l, ∀ p, read (write p w) = read p) (p : β) : read (l.foldl write p) = read p := by
  induction l generalizing p with
  | nil => rfl
  | cons w l ih =>
    rw [List.forall_mem_cons] at h
    rw [List.foldl_cons, ih h.2, h.1]

/-- The last write to a place stays. -/
theorem foldl_last {α β γ : Type} {write : β → α → β} {read : β → γ} {v : γ} {before after : List α} {w : α}
    (here : ∀ p, read (write p w) = v) (h : ∀ x ∈ after, ∀ p, read (write p x) = read p) (p : β) :
    read ((before ++ w :: after).foldl write p) = v := by
  rw [List.foldl_append, List.foldl_cons, foldl_untouched h, here]

section Entries

variable {s : State} {b : Byte} {k : SlotId}

theorem planCell_range {es : List CellEntry} (h : below 8 b = none ∨ readAll cellOf es = none) :
    s.planCell b es = s.refuse .range := by
  unfold State.planCell
  split
  · next k ws slot read => rcases h with h | h <;> simp_all
  · rfl

theorem planCell_eq {es : List CellEntry} {ws : List (SpokeId × CellPos × Option Cell)} (hb : below 8 b = some k)
    (read : readAll cellOf es = some ws) : s.planCell b es =
    if s.slots[k].state = .loading then
      (s.setSlot k { s.slots[k] with plan := ws.foldl Plan.writeCell s.slots[k].plan }).slotReply k
    else s.refuse .wrongState := by
  unfold State.planCell
  rw [hb, read]

theorem planExpect_range {ps : List ExpectPair} (h : below 8 b = none ∨ readAll pairOf ps = none) :
    s.planExpect b ps = s.refuse .range := by
  unfold State.planExpect
  split
  · next k ws slot read => rcases h with h | h <;> simp_all
  · rfl

theorem planExpect_eq {ps : List ExpectPair} {ws : List (SpokeId × Option NodeClass)} (hb : below 8 b = some k)
    (read : readAll pairOf ps = some ws) : s.planExpect b ps =
    if s.slots[k].state = .loading then
      (s.setSlot k { s.slots[k] with plan := ws.foldl Plan.writeExpect s.slots[k].plan }).slotReply k
    else s.refuse .wrongState := by
  unfold State.planExpect
  rw [hb, read]

/-- A slot in LOADING whose plan was written anew. -/
theorem rewritten_slotReply (loading : s.slots[k].state = .loading) (p : Plan) :
    (s.setSlot k { s.slots[k] with plan := p }).slotReply k =
      ⟨.done, [1], s.setSlot k { s.slots[k] with plan := p }⟩ := by
  rw [setSlot_slotReply]
  dsimp only
  rw [loading]
  rfl

end Entries

/-- Settles O29. -/
theorem entriesWrittenInOrder : Obligations.EntriesWrittenInOrder := by
  refine fun tag b es ps k s t hb => ⟨fun hc some_ few => ?_, fun hc some_ few => ?_⟩
  · have wf : (Instr.planCell tag b es).wf = true := by simp [Instr.wf, some_, few]
    refine ⟨fun out => answers_of s rfl hc wf (planCell_range (.inr out)), fun ws read other =>
      answers_of s rfl hc wf ((planCell_eq hb read).trans (if_neg other)), fun ws read loading =>
      ⟨t.setSlot k { t.slots[k] with plan := ws.foldl Plan.writeCell t.slots[k].plan },
        answers_of s rfl hc wf ((planCell_eq hb read).trans ((if_pos loading).trans (rewritten_slotReply loading _))), rfl,
        fun j n => set_other _ _ n, ?_⟩⟩
    rw [show (t.setSlot k _).slots[k] = _ from set_same _ _ _]
    refine ⟨loading, fun i c => ⟨?_, fun none_ => ?_, ?_⟩⟩
    · exact foldl_untouched (read := fun p : Plan => p[i].expect) (fun w _ p => writeCell_expect p w i) _
    · exact foldl_untouched (read := fun p : Plan => p[i].cells[c])
        (fun w hw p => (writeCell_cell p w i c).trans (if_neg (none_ w hw))) _
    · rintro before v after rfl last
      exact foldl_last (read := fun p : Plan => p[i].cells[c])
        (fun p => (writeCell_cell p _ i c).trans (if_pos ⟨rfl, rfl⟩))
        (fun w hw p => (writeCell_cell p w i c).trans (if_neg (last w hw))) _
  · have wf : (Instr.planExpect tag b ps).wf = true := by simp [Instr.wf, some_, few]
    refine ⟨fun out => answers_of s rfl hc wf (planExpect_range (.inr out)), fun ws read other =>
      answers_of s rfl hc wf ((planExpect_eq hb read).trans (if_neg other)), fun ws read loading =>
      ⟨t.setSlot k { t.slots[k] with plan := ws.foldl Plan.writeExpect t.slots[k].plan },
        answers_of s rfl hc wf ((planExpect_eq hb read).trans ((if_pos loading).trans (rewritten_slotReply loading _))),
        rfl, fun j n => set_other _ _ n, ?_⟩⟩
    rw [show (t.setSlot k _).slots[k] = _ from set_same _ _ _]
    refine ⟨loading, fun i => ⟨?_, fun none_ => ?_, ?_⟩⟩
    · exact foldl_untouched (read := fun p : Plan => p[i].cells) (fun w _ p => writeExpect_cells p w i) _
    · exact foldl_untouched (read := fun p : Plan => p[i].expect)
        (fun w hw p => (writeExpect_expect p w i).trans (if_neg (none_ w hw))) _
    · rintro before v after rfl last
      exact foldl_last (read := fun p : Plan => p[i].expect)
        (fun p => (writeExpect_expect p _ i).trans (if_pos rfl))
        (fun w hw p => (writeExpect_expect p w i).trans (if_neg (last w hw))) _

/-! ## TRIM POINT and TRIM (R69 to R73) -/

theorem trimPoint_eq {s : State} {a b c : Byte} {k : SlotId} {i : SpokeId} {p : CellPos} (hk : below 8 a = some k)
    (hi : below 32 b = some i) (hp : below 4 c = some p) : s.trimPoint a b c =
    if s.slots[k].state.trims then
      ⟨.done, pointerBytes (some ⟨k, i, p, .dl⟩), { s with pointer := some ⟨k, i, p, .dl⟩, staging := ⟨none, none⟩ }⟩
    else s.refuse .wrongState := by
  unfold State.trimPoint
  rw [hk, hi, hp]

theorem trims_iff (st : SlotState) : st.trims = true ↔ st = .loading ∨ st = .ready := by
  cases st <;> simp [SlotState.trims]

theorem trim_point_sets : Claims.TrimPointSets := by
  refine fun tag a b c k i p s t hk hi hp hc => ⟨fun closed => ?_, fun open_ => ?_⟩
  · refine answers_of s rfl hc rfl ((trimPoint_eq hk hi hp).trans (if_neg ?_))
    rcases closed with h | h <;> rw [h] <;> decide
  · exact answers_of s rfl hc rfl ((trimPoint_eq hk hi hp).trans (if_pos ((trims_iff _).mpr open_)))

section Landing

variable {l : Landing} {v : Byte} {p : Pointer}

theorem land_dl (hp : l.state.pointer = some p) (part : p.part = .dl) : l.land v =
    { l with state := { l.state with staging := ⟨below 64 v, none⟩, pointer := some { p with part := .ul } } } := by
  unfold Landing.land Pointer.advance
  rw [hp]
  dsimp only
  rw [part]

theorem land_ul (hp : l.state.pointer = some p) (part : p.part = .ul) : l.land v =
    { l with state := { l.state with
      staging := ⟨l.state.staging.down, below 64 v⟩, pointer := some { p with part := .delay } } } := by
  unfold Landing.land Pointer.advance
  rw [hp]
  dsimp only
  rw [part]

theorem advance_delay (part : p.part = .delay) : p.advance =
    { p with part := .dl, pos := p.pos + 1, spoke := if p.pos = 3 then p.spoke + 1 else p.spoke } := by
  unfold Pointer.advance
  rw [part]

theorem land_delay (hp : l.state.pointer = some p) (part : p.part = .delay) : l.land v =
    { l.count p (l.state.commit p v).1 with state := { (l.state.commit p v).2 with
        staging := ⟨none, none⟩, pointer := some p.advance } } := by
  unfold Landing.land
  rw [hp]
  dsimp only
  rw [part]

end Landing

section Commit

variable {s : State} {p : Pointer} {v : Byte} {d u : Fin 64}

theorem commit_empty (h : s.slots[p.slot].plan[p.spoke].cells[p.pos] = none) : s.commit p v = (.skipped, s) := by
  unfold State.commit
  dsimp only
  rw [h]

theorem commit_cell {c : Cell} (h : s.slots[p.slot].plan[p.spoke].cells[p.pos] = some c)
    (staged : s.staging = ⟨some d, some u⟩) : s.commit p v =
    (s.commitCheck s.slots[p.slot].plan[p.spoke] c.feed d,
      if s.commitCheck s.slots[p.slot].plan[p.spoke] c.feed d = .made then
        s.setSlot p.slot
          { s.slots[p.slot] with plan := s.slots[p.slot].plan.writeCell (p.spoke, p.pos, some ⟨c.feed, d, u, v.toFin⟩) }
      else s) := by
  unfold State.commit
  dsimp only
  rw [h, staged]
  dsimp only
  cases s.commitCheck s.slots[p.slot].plan[p.spoke] c.feed d <;> rfl

/-- The level check of a commit, by the class that the entry expects (R72). -/
theorem commitCheck_cases (s : State) (e : Entry) (f : FeedId) (d : Fin 64) :
    (e.expect = none → s.commitCheck e f d = .made) ∧
    (∀ n, e.expect = some n → s.store.nodeClass n = none → s.commitCheck e f d = .refused .classAbsent) ∧
    (∀ n r, e.expect = some n → s.store.nodeClass n = some r →
      s.commitCheck e f d = if r.level + d.val < s.feeds[f].level.val then .refused .level else .made) := by
  unfold State.commitCheck
  refine ⟨fun h => by rw [h], fun n h absent => ?_, fun n r h present => ?_⟩
  · rw [h]
    dsimp only
    rw [absent]
  · rw [h]
    dsimp only
    rw [present]
    simp [State.levelExceeds]

end Commit

theorem next_spoke (i : SpokeId) : i + 1 = if i = 31 then 0 else i + 1 := by
  split
  · next h => rw [h]; rfl
  · rfl

theorem value_lands : Claims.ValueLands := by
  intro l v p hp
  refine ⟨fun d part hd => ?_, fun u part hu => ?_, fun d u part staged => ?_⟩
  · rw [land_dl hp part, hd]
  · rw [land_ul hp part, hu]
  · intro next e
    have advance : some p.advance = next.pointer := by
      rw [advance_delay part]
      show some (_ : Pointer) = some _
      rw [← next_spoke]
    have lands := land_delay (v := v) hp part
    refine ⟨fun empty => ?_, fun c cell => ⟨fun r refused => ?_, fun made => ?_, ?_⟩⟩
    · rw [lands, commit_empty empty, advance]
      rfl
    · rw [lands, commit_cell cell staged, refused, advance]
      rfl
    · rw [lands, commit_cell cell staged, made, advance]
      rfl
    · exact commitCheck_cases l.state e c.feed d

section TrimCommand

variable {s : State} {vs : List Byte} {p : Pointer}

theorem trim_no_pointer (h : s.pointer = none) : s.trim vs = s.refuseTrim .noPointer := by
  unfold State.trim
  rw [h]

theorem trim_eq (h : s.pointer = some p) : s.trim vs =
    if !s.slots[p.slot].state.trims then s.refuseTrim .wrongState
    else if !trimsFit p.part vs then s.refuseTrim .range
    else
      let l := vs.foldl Landing.land ⟨0, 0, 0, none, s⟩
      ⟨.done, u8 l.made ++ u8 l.skipped ++ u8 l.refused ++ failureBytes l.first ++ pointerBytes l.state.pointer ++
        l.state.staging.bytes, l.state⟩ := by
  unfold State.trim
  rw [h]

theorem trim_wrong (h : s.pointer = some p) (closed : s.slots[p.slot].state.trims = false) :
    s.trim vs = ⟨.wrongState, pointerBytes (some p) ++ s.staging.bytes, s⟩ := by
  rw [trim_eq h, if_pos (by rw [closed]; rfl)]
  unfold State.refuseTrim
  rw [h]

theorem trim_range (h : s.pointer = some p) (open_ : s.slots[p.slot].state.trims = true)
    (out : trimsFit p.part vs = false) : s.trim vs = ⟨.range, pointerBytes (some p) ++ s.staging.bytes, s⟩ := by
  rw [trim_eq h, if_neg (by rw [open_]; decide), if_pos (by rw [out]; rfl)]
  unfold State.refuseTrim
  rw [h]

theorem trim_lands (h : s.pointer = some p) (open_ : s.slots[p.slot].state.trims = true)
    (fits : trimsFit p.part vs = true) : s.trim vs =
      let l := vs.foldl Landing.land ⟨0, 0, 0, none, s⟩
      ⟨.done, u8 l.made ++ u8 l.skipped ++ u8 l.refused ++ failureBytes l.first ++ pointerBytes l.state.pointer ++
        l.state.staging.bytes, l.state⟩ := by
  rw [trim_eq h, if_neg (by rw [open_]; decide), if_neg (by rw [fits]; decide)]

end TrimCommand

theorem trimsFit_cell {d u v : Byte} : trimsFit .dl [d, u, v] = true ↔ d.toNat < 64 ∧ u.toNat < 64 := by
  simp [trimsFit, Part.next]

/-- The state of a landing at the end of a cell, and the place the pointer goes to. -/
theorem land_cell {s : State} {p : Pointer} {d u v : Byte} {dc uc : Fin 64} (hp : s.pointer = some p) (part : p.part = .dl)
    (hd : below 64 d = some dc) (hu : below 64 u = some uc) :
    let w := ([d, u, v].foldl Landing.land ⟨0, 0, 0, none, s⟩).state
    w = { s with slots := w.slots, pointer := w.pointer, staging := ⟨none, none⟩ } ∧
    w.pointer = some { p with pos := p.pos + 1, spoke := if p.pos = 3 then p.spoke + 1 else p.spoke } ∧
    (s.slots[p.slot].plan[p.spoke].cells[p.pos] = none → w.slots = s.slots) ∧
    (∀ c, s.slots[p.slot].plan[p.spoke].cells[p.pos] = some c →
      (s.commitCheck s.slots[p.slot].plan[p.spoke] c.feed dc = .made →
        w.slots = s.slots.set p.slot ⟨s.slots[p.slot].state,
          s.slots[p.slot].plan.writeCell (p.spoke, p.pos, some ⟨c.feed, dc, uc, v.toFin⟩), s.slots[p.slot].failure⟩) ∧
      (s.commitCheck s.slots[p.slot].plan[p.spoke] c.feed dc ≠ .made → w.slots = s.slots)) := by
  obtain ⟨slot, spoke, pos, _⟩ := p
  obtain rfl : _ = Part.dl := part
  let staged : State := { s with staging := ⟨some dc, some uc⟩, pointer := some ⟨slot, spoke, pos, .delay⟩ }
  have first : (⟨0, 0, 0, none, s⟩ : Landing).land d =
      ⟨0, 0, 0, none, { s with staging := ⟨some dc, none⟩, pointer := some ⟨slot, spoke, pos, .ul⟩ }⟩ := by
    rw [land_dl hp rfl, hd]
  have second : (⟨0, 0, 0, none, { s with staging := ⟨some dc, none⟩, pointer := some ⟨slot, spoke, pos, .ul⟩ }⟩ :
      Landing).land u = ⟨0, 0, 0, none, staged⟩ := by
    rw [land_ul rfl rfl, hu]
  rw [List.foldl_cons, List.foldl_cons, List.foldl_cons, List.foldl_nil, first, second,
    land_delay (l := ⟨0, 0, 0, none, staged⟩) (p := ⟨slot, spoke, pos, .delay⟩) rfl rfl, advance_delay rfl]
  rcases cell : s.slots[slot].plan[spoke].cells[pos] with _ | c
  · rw [show staged.commit ⟨slot, spoke, pos, .delay⟩ v = _ from commit_empty cell]
    exact ⟨rfl, rfl, fun _ => rfl, nofun⟩
  · rw [show staged.commit ⟨slot, spoke, pos, .delay⟩ v = _ from commit_cell cell rfl]
    have same : staged.commitCheck staged.slots[slot].plan[spoke] c.feed dc =
      s.commitCheck s.slots[slot].plan[spoke] c.feed dc := rfl
    by_cases made : s.commitCheck s.slots[slot].plan[spoke] c.feed dc = .made
    · rw [if_pos (same.trans made)]
      refine ⟨rfl, rfl, nofun, ?_⟩
      rintro c' ⟨rfl⟩
      exact ⟨fun _ => rfl, fun h => absurd made h⟩
    · rw [if_neg (fun h => made (same.symm.trans h))]
      refine ⟨rfl, rfl, nofun, ?_⟩
      rintro c' ⟨rfl⟩
      exact ⟨fun h => absurd h made, fun _ => rfl⟩

theorem trim_commits_cell : Claims.TrimCommitsCell := by
  refine fun tag d u v s t hc => ⟨fun none_ => ?_, fun p hp closed => ?_, fun p hp open_ part out => ?_,
    fun p dc uc hp open_ part hd hu => ?_⟩
  · refine answers_of s rfl hc rfl ((trim_no_pointer none_).trans ?_)
    unfold State.refuseTrim
    rw [none_]
  · exact answers_of s rfl hc rfl (trim_wrong hp closed)
  · refine answers_of s rfl hc rfl (trim_range hp open_ ?_)
    rw [part, ← Bool.not_eq_true, trimsFit_cell]
    omega
  · have fits : trimsFit p.part [d, u, v] = true := by
      rw [part, trimsFit_cell, ← below_some_iff.mp hd, ← below_some_iff.mp hu]
      exact ⟨dc.isLt, uc.isLt⟩
    exact ⟨_, _, answers_of s rfl hc rfl (trim_lands hp open_ fits), land_cell hp part hd hu⟩

theorem trim_lands_in_order : Claims.TrimLandsInOrder := by
  refine ⟨fun tag vs s t p some_ few hc hp open_ => ?_, fun v vs => ?_⟩
  · have wf : (Instr.trim tag vs).wf = true := by simp [Instr.wf, some_, few]
    exact ⟨fun out => answers_of s rfl hc wf (trim_range hp open_ out), fun fits =>
      ⟨_, rfl, answers_of s rfl hc wf (trim_lands hp open_ fits)⟩⟩
  · exact ⟨rfl, rfl, rfl, fun q => by cases q <;> rfl⟩

/-- Settles O58. -/
theorem trimPointAndTrim : Obligations.TrimPointAndTrim :=
  ⟨trim_point_sets, trim_commits_cell, trim_lands_in_order, value_lands⟩

end Sys2Proof.Machine
end

section
/-! SUPPORT. The operands that name a thing out of range (R170), and the store: the starts and the ends of its operations, the
in-use check and the lock (R147, R150 to R153). -/

namespace Sys2Proof.Machine

/-! ## Operands out of range (R170) -/

section OutOfRange

variable {s : State} {a b c : Byte}

theorem feedRead_range (h : 24 ≤ a.toNat) : s.feedRead a = s.refuse .range := by
  unfold State.feedRead
  rw [below_eq_none h]

/-- Every command whose operand is a spoke refuses one out of range. -/
theorem spoke_commands_range (h : 32 ≤ a.toNat) :
    s.spokeIsolate a = s.refuse .range ∧ s.spokeRestore a = s.refuse .range ∧ s.spokeQuiet a = s.refuse .range ∧
    s.spokeWake a = s.refuse .range ∧ s.spokeRetrain a = s.refuse .range ∧ s.spokeRearm a = s.refuse .range ∧
    s.spokeRead a = s.refuse .range := by
  have out : below 32 a = none := below_eq_none h
  simp only [State.spokeIsolate, State.spokeRestore, State.spokeQuiet, spokeWake_out_of_range h, State.spokeRetrain,
    State.spokeRearm, State.spokeRead, out, and_self]

/-- Every command whose operand is a plan slot or a group refuses one out of range. -/
theorem slot_commands_range (h : 8 ≤ a.toNat) :
    s.planOpen a = s.refuse .range ∧ s.planEdit a = s.refuse .range ∧ s.planClose a = s.refuse .range ∧
    s.planDrop a = s.refuse .range ∧ s.watchOff a = s.refuse .range ∧ s.watchRead a = s.refuse .range := by
  have out : below 8 a = none := below_eq_none h
  simp only [State.planOpen, State.planEdit, State.planClose, State.planDrop, State.watchOff, State.watchRead, out, and_self]

theorem planRead_range (h : 8 ≤ a.toNat ∨ 32 ≤ b.toNat) : s.planRead a b = s.refuse .range := by
  unfold State.planRead
  rcases h with h | h
  · rw [below_eq_none h]
  · rw [below_eq_none h]
    cases below 8 a <;> rfl

theorem trimPoint_range (h : 8 ≤ a.toNat ∨ 32 ≤ b.toNat ∨ 4 ≤ c.toNat) : s.trimPoint a b c = s.refuse .range := by
  unfold State.trimPoint
  rcases h with h | h | h
  · rw [below_eq_none h]
  · rw [below_eq_none h]
    cases below 8 a <;> rfl
  · rw [below_eq_none h]
    cases below 8 a <;> cases below 32 b <;> rfl

theorem bankBind_range (h : 2 ≤ a.toNat ∨ 8 ≤ b.toNat) : s.bankBind a b = s.refuse .range := by
  unfold State.bankBind
  rcases h with h | h
  · rw [show bankOf a = none from flagOf_none_iff.mpr h]
  · rw [below_eq_none h]
    cases bankOf a <;> rfl

theorem qualifyRead_range (h : 5 ≤ a.toNat ∨ 32 ≤ b.toNat) : s.qualifyRead a b = s.refuse .range := by
  unfold State.qualifyRead
  rcases h with h | h
  · rw [faultKindOf_none_iff.mpr h]
  · rw [below_eq_none h]
    cases faultKindOf a <;> rfl

theorem alarmRead_range (h : 16 ≤ a.toNat ∨ 32 ≤ b.toNat) : s.alarmRead a b = s.refuse .range := by
  unfold State.alarmRead
  rcases h with h | h
  · rw [below_eq_none h]
  · rw [below_eq_none h]
    cases below 16 a <;> rfl

theorem qualifySet_range {d e f g : Byte} {lv : Half} (h : qualifyOf a b d e f g lv = none) :
    s.qualifySet a b d e f g lv = s.refuse .range := by
  unfold State.qualifySet
  rw [h]

theorem alarmDone_range (h : 16 ≤ a.toNat) : s.alarmDone a = s.refuse .range := by
  unfold State.alarmDone
  rw [below_eq_none h]

theorem storeWrite_range {c0 c1 c2 c3 : Byte} (h : storeWriteOf a c0 c1 c2 c3 = none) :
    s.storeWrite a c0 c1 c2 c3 = s.refuse .range := by
  unfold State.storeWrite
  rw [h]

theorem watchSet_range {m : BitVec 32} {h l : BitVec 24} {d p tg iv st : Byte} (out : 8 ≤ a.toNat) :
    s.watchSet a m h l d p tg iv st = s.refuse .range := by
  unfold State.watchSet
  rw [below_eq_none out]

theorem meterRead_range {l : List Byte} (h : readAll (below 32) l = none) : s.meterRead l = s.refuse .range := by
  unfold State.meterRead
  rw [h]

theorem storeRead_range (h : 16 ≤ a.toNat) : s.storeRead a = s.refuse .range := by
  unfold State.storeRead
  rw [below_eq_none h]

theorem storeErase_range (h : 4 ≤ a.toNat) : s.storeErase a = s.refuse .range := by
  unfold State.storeErase
  rw [below_eq_none h]

end OutOfRange

theorem cellOf_none {e : CellEntry} (written : e.place.msb = false) (out : 24 ≤ e.feed.toNat) : cellOf e = none := by
  unfold cellOf
  dsimp only
  rw [written, below_eq_none out]
  rfl

theorem pairOf_none {p : ExpectPair} (out : 32 ≤ p.spoke.toNat) : pairOf p = none := by
  unfold pairOf
  rw [below_eq_none out]

theorem orderOf_none_of_mem {l : List Byte} (h : ∃ x ∈ l, 32 ≤ x.toNat) : orderOf l = none := by
  obtain ⟨x, hx, out⟩ := h
  unfold orderOf
  rw [readAll_none_iff.mpr ⟨x, hx, below_eq_none out⟩]

/-- Settles O23. -/
theorem outOfRangeRefused : Obligations.OutOfRangeRefused := by
  intro tag a b c s t
  refine ⟨fun st op bd lv i mem out hc => ?_, fun i mem out hc => ?_, fun i mem out hc => ?_,
    fun es ps out => ⟨fun some_ few hc => ?_, fun some_ few hc => ?_⟩,
    fun es ps => ⟨fun some_ few ⟨e, he, written, out⟩ hc => ?_, fun some_ few ⟨p, hp, out⟩ hc => ?_⟩,
    fun out hc => answers_of s rfl hc rfl (planRead_range out),
    fun out hc => answers_of s rfl hc rfl (trimPoint_range out),
    fun out hc => answers_of s rfl hc rfl (bankBind_range out),
    fun out hc => answers_of s rfl hc rfl (bankRelease_range out),
    fun l len out hc => answers_of s rfl hc (by simp [Instr.wf, len]) (sweepOrder_range (orderOf_none_of_mem out)),
    fun d iv out hc => answers_of s rfl hc rfl (captureRequest_range (.inl ?_)),
    fun d e f lv out hc => answers_of s rfl hc rfl (qualifySet_range ?_),
    fun out hc => answers_of s rfl hc rfl (alarmDone_range out),
    fun d e out hc => answers_of s rfl hc rfl (storeWrite_range (storeWriteOf_none_iff.mpr (.inl out))),
    fun m h l d p tg iv st out hc => answers_of s rfl hc rfl (watchSet_range out),
    fun l some_ few out hc => answers_of s rfl hc (by simp [Instr.wf, some_, few]) (meterRead_range out),
    fun out hc => answers_of s rfl hc rfl (qualifyRead_range out),
    fun out hc => answers_of s rfl hc rfl (alarmRead_range out),
    fun out hc => answers_of s rfl hc rfl (storeRead_range out),
    fun out hc => answers_of s rfl hc rfl (storeErase_range out)⟩
  · simp only [List.mem_cons, List.not_mem_nil, or_false] at mem
    rcases mem with rfl | rfl
    · exact answers_of s rfl hc rfl (feedRead_range out)
    · exact answers_of s rfl hc rfl (feedSet_range (feedSetOf_none_iff.mpr (.inl (below_eq_none out))))
  · obtain ⟨isolate, restore, quiet, wake, retrain, rearm, read⟩ := spoke_commands_range (s := t) out
    simp only [List.mem_cons, List.not_mem_nil, or_false] at mem
    rcases mem with rfl | rfl | rfl | rfl | rfl | rfl | rfl
    · exact answers_of s rfl hc rfl isolate
    · exact answers_of s rfl hc rfl restore
    · exact answers_of s rfl hc rfl quiet
    · exact answers_of s rfl hc rfl wake
    · exact answers_of s rfl hc rfl retrain
    · exact answers_of s rfl hc rfl rearm
    · exact answers_of s rfl hc rfl read
  · obtain ⟨opens, edit, close, drop, off, read⟩ := slot_commands_range (s := t) out
    simp only [List.mem_cons, List.not_mem_nil, or_false] at mem
    rcases mem with rfl | rfl | rfl | rfl | rfl | rfl
    · exact answers_of s rfl hc rfl opens
    · exact answers_of s rfl hc rfl edit
    · exact answers_of s rfl hc rfl close
    · exact answers_of s rfl hc rfl drop
    · exact answers_of s rfl hc rfl off
    · exact answers_of s rfl hc rfl read
  · exact answers_of s rfl hc (by simp [Instr.wf, some_, few]) (planCell_range (.inl (below_eq_none out)))
  · exact answers_of s rfl hc (by simp [Instr.wf, some_, few]) (planExpect_range (.inl (below_eq_none out)))
  · exact answers_of s rfl hc (by simp [Instr.wf, some_, few])
      (planCell_range (.inr (readAll_none_iff.mpr ⟨e, he, cellOf_none written out⟩)))
  · exact answers_of s rfl hc (by simp [Instr.wf, some_, few])
      (planExpect_range (.inr (readAll_none_iff.mpr ⟨p, hp, pairOf_none out⟩)))
  · rw [targetOf_none_iff, below_none_iff, below_none_iff]
    exact out.imp_right .inl
  · rw [qualifyOf_none_iff, faultKindOf_none_iff]
    exact .inl out

/-! ## A page of the store -/

theorem onPage_at {α : Type} (p : PageId) (x : α) (v : Vector α 16) (r : RecordId) :
    (onPage p x v)[r] = if pageOf r = p then x else v[r] := tabulate_get _ _

/-! ## STORE ERASE, STORE WRITE and STORE LOCK (R150, R152, R153) -/

section StoreCommands

variable {s : State} {a c0 c1 c2 c3 : Byte}

theorem storeErase_eq {p : PageId} (h : below 4 a = some p) : s.storeErase a =
    if s.store.locked then s.refuse .locked
    else if s.store.engine ≠ .idle then s.refuse .busy
    else if s.pageInUse p then s.refuse .inUse
    else ⟨.started, [], s.mapStore (Store.startErase p)⟩ := by
  unfold State.storeErase
  rw [h]

theorem storeWrite_eq {r : RecordId} {c : Contents} (h : storeWriteOf a c0 c1 c2 c3 = some (r, c)) :
    s.storeWrite a c0 c1 c2 c3 =
    if s.store.locked then s.refuse .locked
    else if s.store.engine ≠ .idle then s.refuse .busy
    else if !s.store.intact[pageOf r] then s.refuse .torn
    else if s.store.records[r] ≠ .blank then s.refuse .wrongState
    else ⟨.started, [], s.mapStore (Store.startWrite r c)⟩ := by
  unfold State.storeWrite
  rw [h]

end StoreCommands

/-- A record of a page that is being erased is withdrawn (R150). -/
theorem lookup_withdrawing {st : Store} {r : RecordId} (h : st.withdrawing[pageOf r] = true) : st.lookup r = none := by
  unfold Store.lookup
  rw [h]
  rfl

theorem store_work_starts : Claims.StoreWorkStarts := by
  refine fun tag a c0 c1 c2 c3 s t => ⟨fun p read hc => ?_, fun hc => ⟨fun out =>
    answers_of s rfl hc rfl (storeWrite_range out), fun r c read => ?_⟩⟩
  · have act := storeErase_eq (s := t) read
    refine ⟨fun locked => ?_, fun open_ busy => ?_, fun open_ idle used => ?_, fun open_ idle unused => ?_⟩
    · exact answers_of s rfl hc rfl (act.trans (if_pos locked))
    · exact answers_of s rfl hc rfl (act.trans ((if_neg (by rw [open_]; decide)).trans (if_pos busy)))
    · exact answers_of s rfl hc rfl (act.trans ((if_neg (by rw [open_]; decide)).trans
        ((if_neg (not_not.mpr idle)).trans (if_pos used))))
    · refine ⟨t.mapStore (Store.startErase p), answers_of s rfl hc rfl (act.trans ((if_neg (by rw [open_]; decide)).trans
        ((if_neg (not_not.mpr idle)).trans (if_neg (by rw [unused]; decide))))), rfl, rfl, rfl, set_same _ _ _,
        set_same _ _ _, rfl, rfl, fun q n => ⟨set_other _ _ n, set_other _ _ n⟩, fun r => onPage_at _ _ _ r,
        fun r here => lookup_withdrawing ?_⟩
      subst here
      exact set_same _ _ _
  · have act := storeWrite_eq (s := t) read
    refine ⟨fun locked => ?_, fun open_ busy => ?_, fun open_ idle torn => ?_, fun open_ idle intact used => ?_,
      fun open_ idle intact blank => ?_⟩
    · exact answers_of s rfl hc rfl (act.trans (if_pos locked))
    · exact answers_of s rfl hc rfl (act.trans ((if_neg (by rw [open_]; decide)).trans (if_pos busy)))
    · exact answers_of s rfl hc rfl (act.trans ((if_neg (by rw [open_]; decide)).trans
        ((if_neg (not_not.mpr idle)).trans (if_pos (by rw [torn]; rfl)))))
    · exact answers_of s rfl hc rfl (act.trans ((if_neg (by rw [open_]; decide)).trans
        ((if_neg (not_not.mpr idle)).trans ((if_neg (by rw [intact]; decide)).trans (if_pos used)))))
    · exact answers_of s rfl hc rfl (act.trans ((if_neg (by rw [open_]; decide)).trans
        ((if_neg (not_not.mpr idle)).trans ((if_neg (by rw [intact]; decide)).trans (if_neg (not_not.mpr blank))))))

theorem store_lock_sets : Claims.StoreLockSets := by
  refine fun tag s t hc => ⟨fun locked => ?_, fun open_ busy => ?_, fun open_ idle => ?_⟩
  · exact answers_of s rfl hc rfl (if_pos locked)
  · exact answers_of s rfl hc rfl ((if_neg (by rw [open_]; decide)).trans (if_pos busy))
  · exact answers_of s rfl hc rfl ((if_neg (by rw [open_]; decide)).trans (if_neg (not_not.mpr idle)))

/-! ## The in-use check of an erase (R150) -/

theorem mem_boundEntries (s : State) (e : Entry) :
    e ∈ s.boundEntries ↔ ∃ (k : SlotId) (i : SpokeId), Bound s k ∧ s.slots[k].plan[i] = e := by
  unfold State.boundEntries
  simp only [List.mem_flatMap, List.mem_filter, List.mem_finRange, true_and, Engine.holds_iff, Vector.mem_toList_iff,
    Vector.mem_iff_getElem]
  constructor
  · rintro ⟨k, bound, i, hi, e⟩
    exact ⟨k, ⟨i, hi⟩, bound, e⟩
  · rintro ⟨k, i, bound, e⟩
    exact ⟨k, bound, i.val, i.isLt, e⟩

theorem operatorInUse_iff (s : State) (o : Fin 8) : s.operatorInUse o = true ↔ ∃ f : FeedId, s.feeds[f].operator = o ∧
    (s.feeds[f].state ≠ .unused ∨ ∃ k i, Bound s k ∧ Carries s.slots[k].plan i f) := by
  have named (f : FeedId) : (s.boundEntries.any fun e => e.names f) = true ↔
      ∃ k i, Bound s k ∧ Carries s.slots[k].plan i f := by
    simp only [List.any_eq_true, mem_boundEntries, Carries_iff]
    constructor
    · rintro ⟨_, ⟨k, i, bound, rfl⟩, names⟩
      exact ⟨k, i, bound, names⟩
    · rintro ⟨k, i, bound, names⟩
      exact ⟨_, ⟨k, i, bound, rfl⟩, names⟩
  unfold State.operatorInUse
  simp only [List.any_eq_true, Bool.and_eq_true, Bool.or_eq_true, beq_iff_eq, bne_iff_ne, named]
  exact ⟨fun ⟨f, _, h⟩ => ⟨f, h⟩, fun ⟨f, h⟩ => ⟨f, List.mem_finRange f, h⟩⟩

theorem classInUse_iff (s : State) (n : NodeClass) : s.classInUse n = true ↔
    (∃ (k : SlotId) (i : SpokeId), Bound s k ∧ s.slots[k].plan[i].expect = some n) ∨
      ∃ i : SpokeId, s.spokes[i].knownClass = some n := by
  unfold State.classInUse
  rw [Bool.or_eq_true]
  refine or_congr ?_ ?_
  · simp only [List.any_eq_true, mem_boundEntries, beq_iff_eq]
    constructor
    · rintro ⟨_, ⟨k, i, bound, rfl⟩, expect⟩
      exact ⟨k, i, bound, expect⟩
    · rintro ⟨k, i, bound, expect⟩
      exact ⟨_, ⟨k, i, bound, rfl⟩, expect⟩
  · simp only [List.any_eq_true, beq_iff_eq, Vector.mem_toList_iff, Vector.mem_iff_getElem]
    constructor
    · rintro ⟨_, ⟨i, hi, rfl⟩, known⟩
      exact ⟨⟨i, hi⟩, known⟩
    · rintro ⟨i, known⟩
      exact ⟨_, ⟨i.val, i.isLt, rfl⟩, known⟩

theorem recordInUse_operator (s : State) (o : Fin 8) : s.recordInUse (operatorRecord o) = s.operatorInUse o :=
  dif_pos o.isLt

theorem recordInUse_class (s : State) (n : NodeClass) : s.recordInUse (classRecord n) = s.classInUse n := by
  unfold State.recordInUse classRecord
  rw [dif_neg (by show ¬ 8 + n.val < 8; omega)]
  congr 1
  exact Fin.ext (show 8 + n.val - 8 = n.val by omega)

/-- Records 0 to 7 are the operators', records 8 to 15 the node classes' (R142). -/
theorem record_cases (r : RecordId) : (∃ o, r = operatorRecord o) ∨ ∃ n, r = classRecord n := by
  rcases Nat.lt_or_ge r.val 8 with low | high
  · exact .inl ⟨⟨r.val, low⟩, rfl⟩
  · exact .inr ⟨⟨r.val - 8, by omega⟩, Fin.ext (show r.val = 8 + (r.val - 8) by omega)⟩

theorem pageOf_operatorRecord {o : Fin 8} {p : PageId} : pageOf (operatorRecord o) = p ↔ o.val / 4 = p.val := Fin.ext_iff

theorem pageOf_classRecord {n : NodeClass} {p : PageId} : pageOf (classRecord n) = p ↔ 2 + n.val / 4 = p.val := by
  have same : (8 + n.val) / 4 = 2 + n.val / 4 := by omega
  rw [Fin.ext_iff, ← same]
  rfl

theorem page_references : Claims.PageReferences := by
  intro s p
  have used : s.pageInUse p = true ↔ ∃ r : RecordId, pageOf r = p ∧ s.recordInUse r = true := by
    unfold State.pageInUse
    simp
  rw [used]
  constructor
  · rintro ⟨r, page, inUse⟩
    rcases record_cases r with ⟨o, rfl⟩ | ⟨n, rfl⟩
    · rw [recordInUse_operator, operatorInUse_iff] at inUse
      obtain ⟨f, named, reads⟩ := inUse
      exact .inl ⟨o, f, pageOf_operatorRecord.mp page, named, reads⟩
    · rw [recordInUse_class, classInUse_iff] at inUse
      exact .inr ⟨n, pageOf_classRecord.mp page, inUse⟩
  · rintro (⟨o, f, page, named, reads⟩ | ⟨n, page, inUse⟩)
    · exact ⟨operatorRecord o, pageOf_operatorRecord.mpr page, by
        rw [recordInUse_operator, operatorInUse_iff]
        exact ⟨f, named, reads⟩⟩
    · exact ⟨classRecord n, pageOf_classRecord.mpr page, by
        rw [recordInUse_class, classInUse_iff]
        exact inUse⟩

/-- Settles O60. -/
theorem storeWorkAndLock : Obligations.StoreWorkAndLock :=
  ⟨store_work_starts, store_write_ranges, page_references, store_lock_sets⟩

/-! ## The ends of store operations (R147, R151 to R153) -/

theorem ends_iff (st : Store) : st.ends = true ↔ st.engine ≠ .idle ∧ st.left = 0 := by simp [Store.ends]

section StoreEnds

variable {s : State}

theorem readEnd_reading (left : s.store.left = 0) (h : s.store.engine = .reading) :
    s.readEnd = s.mapStore Store.endRead := by
  refine if_pos ?_
  rw [(ends_iff _).mpr ⟨by rw [h]; decide, left⟩, h]
  rfl

theorem eraseEnd_erasing {p : PageId} (left : s.store.left = 0) (h : s.store.engine = .erasing p) (good : Bool) :
    s.eraseEnd good = (s.mapStore (Store.endErase p good)).raiseStoreEnd 1 p.val (!good) := by
  unfold State.eraseEnd
  rw [h]
  exact if_pos ((ends_iff _).mpr ⟨by rw [h]; nofun, left⟩)

theorem writeEnd_writing {r : RecordId} {c : Contents} (left : s.store.left = 0) (h : s.store.engine = .writing r c)
    (good : Bool) :
    s.writeEnd good = (s.mapStore (Store.endWrite r c good)).raiseStoreEnd 2 r.val (!good) := by
  unfold State.writeEnd
  rw [h]
  exact if_pos ((ends_iff _).mpr ⟨by rw [h]; nofun, left⟩)

theorem lockEnd_locking (left : s.store.left = 0) (h : s.store.engine = .locking) :
    s.lockEnd = (s.mapStore fun st => { st with engine := .idle }).raiseStoreEnd 3 0xFF false := by
  refine if_pos ?_
  rw [(ends_iff _).mpr ⟨by rw [h]; decide, left⟩, h]
  rfl

end StoreEnds

theorem present_of_valid {st : Store} {r : RecordId} {c : Contents} (valid : st.records[r] = .valid c)
    (intact : st.intact[pageOf r] = true) : st.present r = some c := by
  unfold Store.present
  rw [valid]
  exact if_pos intact

theorem present_of_absent {st : Store} {r : RecordId}
    (h : st.records[r] = .blank ∨ st.records[r] = .spoiled ∨ st.intact[pageOf r] = false) : st.present r = none := by
  unfold Store.present
  rcases h with h | h | torn
  · rw [h]
  · rw [h]
  · rw [torn]
    cases st.records[r] <;> rfl

/-- Settles O20. -/
theorem storeOperationsEnd : Obligations.StoreOperationsEnd := by
  refine fun s left => ⟨fun reading => ?_, fun p good erasing => ?_, fun r c good writing => ?_, fun locking => ?_⟩
  · refine ⟨_, congrArg Host.Outcome.next (readEnd_reading left reading), rfl, rfl, rfl, rfl, fun r =>
      ⟨fun c valid intact => ?_, fun absent => ?_⟩⟩
    · exact (tabulate_get _ r).trans (present_of_valid valid intact)
    · exact (tabulate_get _ r).trans (present_of_absent absent)
  · exact ⟨_, congrArg Host.Outcome.next (eraseEnd_erasing left erasing good), rfl, rfl, set_same _ _ _, set_same _ _ _, rfl,
      rfl, fun q n => ⟨set_other _ _ n, set_other _ _ n⟩,
      fun r here => ⟨(onPage_at _ _ _ r).trans (if_pos here), (onPage_at _ _ _ r).trans (if_pos here)⟩,
      fun r other => ⟨(onPage_at _ _ _ r).trans (if_neg other), (onPage_at _ _ _ r).trans (if_neg other)⟩⟩
  · refine ⟨_, congrArg Host.Outcome.next (writeEnd_writing left writing good), rfl, rfl, set_same _ _ _, ?_, rfl, rfl, rfl,
      rfl, fun q n => ⟨set_other _ _ n, ?_⟩⟩
    · cases good with
      | true => exact set_same _ _ _
      | false => rfl
    · cases good with
      | true => exact set_other _ _ n
      | false => rfl
  · exact ⟨_, congrArg Host.Outcome.next (lockEnd_locking left locking), rfl, rfl⟩

end Sys2Proof.Machine
end

section
/-! SUPPORT. Admission (R63 to R67, R146), from the failures of a plan in their order, and BANK BIND (R78, R79). -/

namespace Sys2Proof.Machine

/-! ## Admission finds the first failure (R63, R66) -/

theorem admission_none_iff (s : State) (full : Bool) (p : Plan) :
    s.admission full p = none ↔ ∀ f, ¬PlanFails s full p f := by
  rw [admission_head, List.head?_eq_none_iff, List.eq_nil_iff_forall_not_mem]
  exact forall_congr' fun f => not_congr (mem_failures s full p f)

/-- The head of a sorted list is its member that none goes before. -/
theorem head_iff_first {α β : Type} [LinearOrder β] {l : List α} {key : α → β}
    (sorted : l.Pairwise fun a b => key a < key b) (f : α) :
    l.head? = some f ↔ f ∈ l ∧ ∀ g ∈ l, ¬ key g < key f := by
  rcases l with _ | ⟨h, l⟩
  · simp
  · obtain ⟨first, _⟩ := List.pairwise_cons.mp sorted
    rw [List.head?_cons, Option.some.injEq]
    constructor
    · rintro rfl
      refine ⟨List.mem_cons_self, fun g hg => ?_⟩
      rcases List.mem_cons.mp hg with rfl | hg
      · exact lt_irrefl _
      · exact lt_asymm (first g hg)
    · rintro ⟨hf, least⟩
      rcases List.mem_cons.mp hf with rfl | hf
      · rfl
      · exact absurd (first f hf) (least h List.mem_cons_self)

theorem admission_finds_first : Claims.AdmissionFindsFirst := by
  refine fun s full p => ⟨admission_none_iff s full p, fun f => ?_⟩
  rw [admission_head, head_iff_first (failures_sorted s full p), mem_failures]
  exact and_congr_right fun _ => forall_congr' fun g => by rw [mem_failures]

/-! ## A plan that passes (R63 to R66) -/

section Passes

variable {s : State} {p : Plan} {i : SpokeId} {k : CellPos} {c : Cell}

/-- Each check of a cell of an admitted plan holds. -/
theorem cell_passes (h : s.admission true p = none) (cell : p[i].cells[k] = some c) (r : FailReason) :
    ¬ CellFails s p[i] k c r := fun fails =>
  (admission_none_iff s true p).mp h ⟨i, some k, r⟩ ⟨nofun, .inl ⟨k, c, rfl, cell, fails⟩⟩

theorem spoke_passes (h : s.admission true p = none) (i : SpokeId) (r : FailReason) : ¬ SpokeFails s p[i] r := fun fails =>
  (admission_none_iff s true p).mp h ⟨i, none, r⟩ ⟨nofun, .inr (.inl ⟨rfl, fails⟩)⟩

/-- No more spokes carry a feed than its operator's record allows. -/
theorem fanout_passes (h : s.admission true p = none) {f : FeedId} {o : OperatorRec}
    (record : s.store.operator s.feeds[f].operator = some o) : (p.carriers f).length ≤ o.fanout := by
  unfold State.admission at h
  obtain ⟨_, fanout⟩ := Option.or_eq_none_iff.mp h
  unfold State.fanoutCheck at fanout
  have here := List.findSome?_eq_none_iff.mp fanout f (List.mem_finRange f)
  rw [record] at here
  simpa using here

end Passes

theorem admitted_plan_passes : Claims.AdmittedPlanPasses := by
  intro s p h
  have present (i : SpokeId) (cls : NodeClass) (expect : p[i].expect = some cls) :
      ∃ r, s.store.nodeClass cls = some r := by
    rcases found : s.store.nodeClass cls with _ | r
    · exact absurd ⟨cls, expect, found⟩ (spoke_passes h i .classAbsent)
    · exact ⟨r, rfl⟩
  refine ⟨fun i k c cell => ⟨cell_passes h cell .feedUnused, fun j below same => ?_, ?_, ?_⟩, fun i cls expect => ?_⟩
  · obtain ⟨d, hd, feed⟩ := Option.map_eq_some_iff.mp same
    exact cell_passes h cell .feedTwice ⟨j, d, below, hd, feed⟩
  · rcases expect : p[i].expect with _ | cls
    · exact absurd ⟨expect, k, by rw [cell]; nofun⟩ (spoke_passes h i .noClass)
    · obtain ⟨r, record⟩ := present i cls expect
      refine ⟨cls, r, rfl, record, ?_, ?_, ?_⟩
      · rw [Entry.count_eq]
        exact Nat.not_lt.mp fun over_ => spoke_passes h i .capacity ⟨cls, r, expect, record, over_⟩
      · exact Bool.not_eq_false _ ▸ fun off => cell_passes h cell .band ⟨cls, r, expect, record, off⟩
      · by_contra above
        exact cell_passes h cell .level ⟨cls, r, expect, record, by omega⟩
  · obtain ⟨o, record, port, band⟩ := not_not.mp (cell_passes h cell .operator)
    exact ⟨o, record, port, band, fanout_passes h record⟩
  · obtain ⟨r, record⟩ := present i cls expect
    rw [record]
    rfl

/-! ## The records that checks read (R64, R65, R146) -/

theorem lookup_some_iff {st : Store} {r : RecordId} {c : Contents} :
    st.lookup r = some c ↔ st.working[r] = some c ∧ st.withdrawing[pageOf r] = false := by
  unfold Store.lookup
  split <;> simp [*]

theorem operator_some_iff {st : Store} {n : Fin 8} {r : OperatorRec} :
    st.operator n = some r ↔ st.lookup (operatorRecord n) = some (.operator r) := by
  unfold Store.operator
  split
  · next o h => simp [h]
  · next h => exact iff_of_false nofun fun e => h r e

theorem nodeClass_some_iff {st : Store} {n : NodeClass} {r : ClassRec} :
    st.nodeClass n = some r ↔ st.lookup (classRecord n) = some (.nodeClass r) := by
  unfold Store.nodeClass
  split
  · next o h => simp [h]
  · next h => exact iff_of_false nofun fun e => h r e

theorem records_read : Claims.RecordsRead := by
  refine fun st n => ⟨fun r => ?_, fun r => ?_⟩
  · rw [operator_some_iff, lookup_some_iff]
    rfl
  · have same : (8 + n.val) / 4 = 2 + n.val / 4 := by omega
    rw [nodeClass_some_iff, lookup_some_iff]
    show (_ ∧ st.withdrawing[(8 + n.val) / 4]'(by omega) = false) ↔ _
    simp only [same]
    rfl

/-- Settles O30. -/
theorem admissionPassesAllChecks : Obligations.AdmissionPassesAllChecks :=
  ⟨admitted_plan_passes, admission_finds_first, records_read⟩

/-! ## BANK BIND (R78, R79) -/

/-- The state after a bind: the bank holds the slot, and its followers have met the settle start and the class check. -/
def State.bound (bank : Bool) (k : SlotId) (s : State) : State :=
  eachSpoke (State.settleFollower bank) (s.mapEngine (·.bind bank (some k)))

section BankBind

variable {s : State} {a b : Byte} {bank : Bool} {k : SlotId}

theorem bankBind_busy (hbank : bankOf a = some bank) (hk : below 8 b = some k) (busy : s.engine.state ≠ .idle) :
    s.bankBind a b = s.refuse .busy := by
  unfold State.bankBind
  rw [hbank, hk]
  exact if_pos busy

theorem bankBind_not_ready (hbank : bankOf a = some bank) (hk : below 8 b = some k) (idle : s.engine.state = .idle)
    (other : s.slots[k].state ≠ .ready) : s.bankBind a b = s.refuse .wrongState := by
  unfold State.bankBind
  rw [hbank, hk]
  exact (if_neg (not_not.mpr idle)).trans (if_pos other)

theorem bankBind_used (hbank : bankOf a = some bank) (hk : below 8 b = some k) (idle : s.engine.state = .idle)
    (ready : s.slots[k].state = .ready)
    (used : (s.engine.binding bank).isSome = true ∧ s.engine.hasFollowers bank = true) :
    s.bankBind a b = s.refuse .inUse := by
  unfold State.bankBind
  rw [hbank, hk]
  exact (if_neg (not_not.mpr idle)).trans ((if_neg (not_not.mpr ready)).trans (if_pos used))

theorem bankBind_fails {f : Failure} (hbank : bankOf a = some bank) (hk : below 8 b = some k) (idle : s.engine.state = .idle)
    (ready : s.slots[k].state = .ready)
    (free : ¬((s.engine.binding bank).isSome = true ∧ s.engine.hasFollowers bank = true))
    (fails : s.admission false s.slots[k].plan = some f) : s.bankBind a b = ⟨.entitlement, f.bytes, s⟩ := by
  unfold State.bankBind
  rw [hbank, hk]
  refine (if_neg (not_not.mpr idle)).trans ((if_neg (not_not.mpr ready)).trans ((if_neg free).trans ?_))
  rw [fails]

theorem bankBind_binds (hbank : bankOf a = some bank) (hk : below 8 b = some k) (idle : s.engine.state = .idle)
    (ready : s.slots[k].state = .ready)
    (free : ¬((s.engine.binding bank).isSome = true ∧ s.engine.hasFollowers bank = true))
    (passes : s.admission false s.slots[k].plan = none) : s.bankBind a b = ⟨.done,
      bindingBytes (s.bound bank k).engine.bankA ++ bindingBytes (s.bound bank k).engine.bankB, s.bound bank k⟩ := by
  unfold State.bankBind
  rw [hbank, hk]
  refine (if_neg (not_not.mpr idle)).trans ((if_neg (not_not.mpr ready)).trans ((if_neg free).trans ?_))
  rw [passes]
  unfold State.bound
  rfl

theorem bound_followed (idle : s.engine.state = .idle) :
    Followed bank k allSpokes (s.mapEngine (·.bind bank (some k))) (s.bound bank k) := by
  obtain ⟨binding, _, _, _, state, _⟩ := bind_binding s.engine bank (some k)
  exact settleFollowers_do bank k allSpokes (List.nodup_finRange 32) _ (state.trans idle) binding

theorem bindingBytes_eq (v : Option SlotId) :
    bindingBytes v = [match v with | some n => BitVec.ofNat 8 n.val | none => 0xFF#8] := by
  cases v <;> rfl

theorem bind_followsB (e : Engine) (bank : Bool) (v : Option SlotId) (i : SpokeId) :
    (e.bind bank v).followsB i = e.followsB i := by
  cases bank <;> rfl

theorem bind_eq (e : Engine) (bank : Bool) (v : Option SlotId) :
    e.bind bank v = if bank then { e with bankB := v } else { e with bankA := v } := rfl

end BankBind

/-- Settles O31, from what a bind does to the followers of the bank. -/
theorem bankBindChecksAndBinds : Obligations.BankBindChecksAndBinds := by
  intro tag a b bank k s t hbank hk hc followed
  refine ⟨fun busy => ?_, fun idle other => ?_, fun idle ready bound used => ?_, fun idle ready free =>
    ⟨fun f fails => ?_, fun passes => ?_⟩⟩
  · exact answers_of s rfl hc rfl (bankBind_busy hbank hk busy)
  · exact answers_of s rfl hc rfl (bankBind_not_ready hbank hk idle other)
  · exact answers_of s rfl hc rfl (bankBind_used hbank hk idle ready ((bankUsed_iff _ _).mpr ⟨bound, used⟩))
  · exact answers_of s rfl hc rfl (bankBind_fails hbank hk idle ready
      (fun x => let ⟨bound, used⟩ := (bankUsed_iff _ _).mp x; free.elim bound fun n => n used) fails)
  · have act := bankBind_binds (s := t) hbank hk idle ready
      (fun x => let ⟨bound, used⟩ := (bankUsed_iff _ _).mp x; free.elim bound fun n => n used) passes
    have frame := settleFollowers_spoke (some k) bank t
    have f := bound_followed (bank := bank) (k := k) idle
    change FrameSpoke t (t.bound bank k) at frame
    generalize t.bound bank k = u at act f frame
    refine ⟨u, ?_, f.engine.trans (bind_eq _ _ _), frame.self, f.channels, fun i n => ?_, fun i live follows => ⟨fun pass => ?_,
      fun c expect differs held => ?_⟩⟩
    · rw [bindingBytes_eq, bindingBytes_eq] at act
      exact answers_of s rfl hc rfl act
    · exact f.not_following i (List.mem_finRange i) (by
        rw [show (t.mapEngine _).engine.followsB i = _ from bind_followsB _ _ _ _]
        exact n)
    · exact f.settles i (List.mem_finRange i) live ((bind_followsB _ _ _ _).trans follows) pass
    · exact f.mismatches i (List.mem_finRange i) live ((bind_followsB _ _ _ _).trans follows) c expect differs held

end Sys2Proof.Machine
end

section
/-! SUPPORT. The boundary's fields (R1), notices entering the Outbound Queue (R110, R132, R133), and what the loss of a carrier
port does (R6, R135, R164, R166). -/

namespace Sys2Proof.Machine

/-! ## A frame boundary (R1) -/

/-- A boundary that opens advances every block, evaluates the groups, and raises CLIP on channel 0. -/
theorem openBoundary_eq (s : State) : s.openBoundary = { s.advance.evaluateGroups with
    channels := (feedsRaised .clip (fun f => s.fabric.saturated[f]) s.advance.evaluateGroups).channels } := by
  unfold State.openBoundary
  rw [raiseClips_feeds]
  exact feedsRaised_frame _ _ _

/-- What is taken after a boundary has opened moves what turns move. -/
theorem boundary_moved (s : State) (before : List Turn) :
    Moved s.closeBoundary.openBoundary (s.boundary before) :=
  (takeTurns_moved _ before).trans (evaluateRest_moved _)

/-- The items that a boundary keeps, and the frame number, which it raises. -/
theorem boundary_keeps_items (s : State) (before : List Turn) : let t := s.boundary before
    t.frame = s.frame + 1#16 ∧ t.reference = s.reference ∧ t.markerSkipped = s.markerSkipped ∧ t.ports = s.ports ∧
    t.feeds = s.feeds ∧ t.slots = s.slots ∧ t.settings = s.settings ∧ t.pointer = s.pointer ∧ t.staging = s.staging ∧
    t.pending = s.pending := by
  have opened := openBoundary_eq s.closeBoundary
  have closed := closeBoundary_moved s
  have moved := boundary_moved s before
  rw [opened] at moved
  refine ⟨?_, ?_, ?_, ?_, ?_, ?_, ?_, ?_, ?_, ?_⟩
  · rw [moved.frameNumber, ← closed.frameNumber]
    rfl
  · exact moved.reference.trans closed.reference
  · exact moved.markerSkipped.trans closed.markerSkipped
  · exact moved.ports.trans closed.ports
  · exact moved.feeds.trans closed.feeds
  · exact moved.slots.trans closed.slots
  · exact moved.settings.trans closed.settings
  · exact moved.pointer.trans closed.pointer
  · exact moved.staging.trans closed.staging
  · exact moved.pending.trans closed.pending

/-! ## The chosen channel (R132) -/

/-- The first of a list in descending order that passes a test is its greatest. -/
theorem find_greatest {α : Type} [LinearOrder α] {l : List α} {p : α → Bool} (sorted : l.Pairwise fun a b => b < a)
    (complete : ∀ a, a ∈ l) (c : α) : l.find? p = some c ↔ p c = true ∧ ∀ d, p d = true → d ≤ c := by
  rw [← List.head?_filter, head_iff_first (key := OrderDual.toDual) (sorted.sublist List.filter_sublist)]
  simp only [List.mem_filter, complete, true_and, OrderDual.toDual_lt_toDual, not_lt]

theorem allChannels_descend : allChannels.Pairwise fun a b => b < a := by decide

theorem mem_allChannels (c : ChannelId) : c ∈ allChannels := by simp [allChannels]

theorem candidate_iff (s : State) (c : ChannelId) : s.candidate c = true ↔ s.channels[c].list ≠ [] ∧
    s.channels[c].masked = false ∧ (s.tracking = true → ∀ d : ChannelId, s.channels[d].inService = true → d < c) := by
  unfold State.candidate State.aboveService Channel.pending
  simp only [Bool.and_eq_true, Bool.not_eq_true', List.isEmpty_eq_false_iff, Bool.or_eq_true, List.all_eq_true,
    mem_allChannels, true_implies, decide_eq_true_eq, and_assoc]
  refine and_congr_right fun _ => and_congr_right fun _ => ?_
  cases s.tracking <;> simp [or_iff_not_imp_left]

theorem channel_chosen : Claims.ChannelChosen := by
  intro s candidate
  have named (c : ChannelId) : s.candidate c = true ↔ candidate c := candidate_iff s c
  refine ⟨fun c => ?_, ?_⟩
  · unfold State.chosen
    rw [find_greatest allChannels_descend mem_allChannels]
    simp only [named]
  · unfold State.chosen
    rw [List.find?_eq_none]
    simp only [mem_allChannels, true_implies, named]

/-! ## The messages of a notice (R133) -/

theorem notice_parts : Claims.NoticeParts := by
  intro c l n
  refine ⟨rfl, noticeMessages_length c l, fun p hp => ?_⟩
  unfold noticeMessages
  rw [List.getElem?_map, List.getElem?_range (show p < partsOf l from hp)]
  rfl

/-- The parts of a list, one after the other, are the list. -/
theorem parts_join {α : Type} (l : List α) (n : Nat) :
    ((List.range n).flatMap fun p => (l.drop (6 * p)).take 6) = l.take (6 * n) := by
  induction n with
  | zero => simp
  | succ n ih =>
    rw [List.range_succ, List.flatMap_append, ih, List.flatMap_singleton, Nat.mul_succ, List.take_add]

theorem entriesOf_noticeMessages (c : ChannelId) (l : List SourceEntry) : entriesOf c (noticeMessages c l) = l := by
  have parts : entriesOf c (noticeMessages c l) = (List.range (partsOf l)).flatMap fun p => (l.drop (6 * p)).take 6 := by
    unfold entriesOf noticeMessages
    rw [List.flatMap_map]
    simp
  rw [parts, parts_join, List.take_of_length_le]
  unfold partsOf
  omega

/-! ## Notices enter the Outbound Queue (R110, R133) -/

section Notices

variable {s : State}

theorem present_presents {c : ChannelId} (chosen : s.chosen = some c) (may : s.mayPresent c = true) :
    s.present = s.presentChannel c := by
  unfold State.present
  rw [chosen]
  exact if_pos may

theorem mayPresent_iff (c : ChannelId) : s.mayPresent c = true ↔ s.mgmtUp = true ∧ s.lane.noResponseWaits = true ∧
    partsOf s.channels[c].list + 2 ≤ s.lane.free ∧ (s.lane.turn = .alarm ∨ s.capture.buffer = none) := by
  unfold State.mayPresent
  simp only [Bool.and_eq_true, Bool.or_eq_true, decide_eq_true_eq, beq_iff_eq, Option.isNone_iff_eq_none, and_assoc]

theorem enqueueCapture_enters {r : Result} {waits : Bool} (buffer : s.capture.buffer = some r) (up : s.mgmtUp = true)
    (quiet : s.lane.noResponseWaits = true) (room : 3 ≤ s.lane.free) (turn : s.lane.turn = .capture ∨ waits = false) :
    s.enqueueCapture waits = { s with
      lane := { s.lane with outbound := s.lane.outbound ++ [.capture r s.capture.missed], turn := .alarm }
      capture := { s.capture with buffer := none, missed := 0 } } := by
  unfold State.enqueueCapture
  rw [buffer]
  refine if_pos ?_
  rw [up, quiet, decide_eq_true room]
  rcases turn with turn | turn <;> rw [turn] <;> simp

end Notices

theorem notices_enter : Claims.NoticesEnter := by
  intro s up holder held
  have quiet : s.lane.noResponseWaits = true := by
    unfold Lane.noResponseWaits
    rw [holder, held]
    rfl
  refine ⟨fun c chosen room turn => ?_, fun r buffer room turn => ?_⟩
  · exact ⟨_, congrArg Host.Outcome.next (present_presents chosen ((mayPresent_iff c).mpr ⟨up, quiet, room, turn⟩)), rfl,
      rfl, rfl, entriesOf_noticeMessages c _, rfl⟩
  · refine congrArg Host.Outcome.next (enqueueCapture_enters buffer up quiet room (turn.imp_right fun none_ => ?_))
    rw [none_]
    rfl

/-- Settles O22. -/
theorem noticesTaken : Obligations.NoticesTaken := ⟨notices_enter, channel_chosen, notice_parts⟩

/-! ## TIMEBASE_RELOCK and CARRIER_PORT_LOCK (R2, R3) -/

theorem relock_takes_marker : Claims.RelockTakesMarker := by
  refine fun micros before s free up => ⟨fun taken => ?_, fun early fresh => ?_⟩
  · obtain ⟨frame, reference, marker, ports, _⟩ :=
      boundary_keeps_items { s with reference := .locked, markerSkipped := false } before
    exact ⟨_, congrArg Host.Outcome.next ((if_pos ⟨free, up⟩).trans (if_pos taken)), rfl, rfl, frame, reference, marker,
      ports⟩
  · refine congrArg Host.Outcome.next ((if_pos ⟨free, up⟩).trans (if_neg ?_))
    rw [fresh]
    simp
    omega

theorem port_lock_raises_nothing : Claims.PortLockRaisesNothing := fun _ _ => rfl

/-! ## The loss of a carrier port (R4, R6) -/

/-- The state in which a port has been lost, before what the loss of the management port brings with it. -/
def State.portLost (p : PortId) (s : State) : State :=
  { s with ports := s.ports.set p false, channels := (feedsRaised .silentPort (s.activeOf p) s).channels }

section PortLoss

variable {s : State} {p : PortId}

theorem portLoss_eq (up : s.ports[p] = true) :
    s.portLoss p = if p = s.mgmtPort then (s.portLost p).mgmtLoss else s.portLost p := by
  unfold State.portLoss
  rw [if_pos up, raiseSilent_feeds, feedsRaised_frame]
  rfl

theorem activeOf_none (h : ∀ f : FeedId, portOf f = p → s.feeds[f].state ≠ .active) (f : FeedId) :
    s.activeOf p f = false := by
  rw [← Bool.not_eq_true, activeOf_iff]
  exact fun ⟨port, active⟩ => h f port active

end PortLoss

theorem port_loss_raises_silent_port : Claims.PortLossRaisesSilentPort := by
  intro p s up other
  refine ⟨s.portLost p, congrArg Host.Outcome.next ((portLoss_eq up).trans (if_neg other)), rfl,
    fun c n => feedsRaised_other _ _ s c n, fun f on port active => ?_, feedsRaised_others _ _ s, fun none_ => ?_⟩
  · exact feedsRaised_mem _ _ s f ((activeOf_iff s p f).mpr ⟨port, active⟩) on
  · show (feedsRaised .silentPort (s.activeOf p) s).channels = s.channels
    rw [feedsRaised_none _ _ s (activeOf_none none_)]

/-! ## The loss of the management port (R135, R164, R166) -/

section MgmtLoss

variable {s : State}

/-- The state after the loss of the management port where no HUB RESET is armed. -/
def State.mgmtDown (s : State) : State :=
  { s with
    ports := s.ports.set s.mgmtPort false
    reference := .free, markerSkipped := false
    channels := tabulate fun c =>
      (feedsRaised .silentPort (s.activeOf s.mgmtPort) s).channels[c].handBack (entriesOf c s.lane.outbound)
    lane := s.lane.portDown, due := { s.due with abandon := false } }

theorem mgmtPort_loss (up : s.ports[s.mgmtPort] = true) (free : s.lane.resetArmed = false) :
    s.portLoss s.mgmtPort = s.mgmtDown := by
  have plain : (s.portLost s.mgmtPort).mgmtLoss = s.mgmtDown := if_neg (by
    show ¬ s.lane.resetArmed = true
    rw [free]
    decide)
  exact (portLoss_eq up).trans ((if_pos rfl).trans plain)

theorem mgmtPort_loss_resets (up : s.ports[s.mgmtPort] = true) (armed : s.lane.resetArmed = true) :
    s.portLoss s.mgmtPort =
      { s with ports := s.ports.set s.mgmtPort false, reference := .free, markerSkipped := false }.hubReset :=
  (portLoss_eq up).trans ((if_pos rfl).trans (if_pos armed))

theorem mgmtDown_channel (c : ChannelId) : s.mgmtDown.channels[c] =
    (feedsRaised .silentPort (s.activeOf s.mgmtPort) s).channels[c].handBack (entriesOf c s.lane.outbound) :=
  tabulate_get _ c

theorem mgmtDown_mgmtUp : s.mgmtDown.mgmtUp = false := set_same _ _ _

end MgmtLoss

/-- Raises on channel 0 leave every channel enabled or disabled as it was. -/
theorem feedsRaised_enabled (d : Detail) (which : FeedId → Bool) (s : State) (c : ChannelId) :
    (feedsRaised d which s).channels[c].enabled = s.channels[c].enabled := by
  unfold feedsRaised
  generalize allFeeds.filter which = l
  induction l generalizing s with
  | nil => rfl
  | cons f l ih =>
    rw [List.foldl_cons, ih, raise_channels, update_get]
    split
    · next e =>
      rw [e]
      unfold Channel.raise
      split <;> rfl
    · rfl

theorem handBack_nil (ch : Channel) : ch.handBack [] = ch := if_neg (by simp)

theorem handBack_disabled {ch : Channel} (back : List SourceEntry) (off : ch.enabled = false) : ch.handBack back = ch :=
  if_neg (by rw [off]; simp)

theorem handBack_enabled {ch : Channel} {back : List SourceEntry} (on : ch.enabled = true) (some_ : back ≠ []) :
    ch.handBack back = { ch with inService := false, list := mergeEntries (back ++ ch.list) } :=
  if_pos (by simp [on, some_])

theorem mergeEntries_append (l : List SourceEntry) (e : SourceEntry) :
    mergeEntries (l ++ [e]) = absorb e (mergeEntries l) := by
  unfold mergeEntries
  rw [List.foldl_append]
  rfl

/-- The sources of a merged list are those of the list, each once, in the order of their earliest entries (R135). -/
theorem mergeEntries_sources (l : List SourceEntry) : (mergeEntries l).map (·.source) = (l.map (·.source)).eraseDups := by
  induction l using List.reverseRecOn with
  | nil => rfl
  | append_singleton l e ih =>
    rw [mergeEntries_append, absorb_sources, ih, List.map_append, List.eraseDups_append]
    simp only [List.mem_eraseDups, List.map_cons, List.map_nil]
    by_cases h : e.source ∈ l.map (·.source)
    · rw [if_pos h, List.removeAll, List.filter_cons_of_neg (by simpa using h)]
      simp
    · rw [if_neg h, List.removeAll, List.filter_cons_of_pos (by simpa using h)]
      rfl

theorem mem_absorb {a e : SourceEntry} {l : List SourceEntry} (nodup : (l.map (·.source)).Nodup) (h : e ∈ absorb a l) :
    (e ∈ l ∧ e.source ≠ a.source) ∨ (e = a ∧ a.source ∉ l.map (·.source)) ∨
      ∃ x ∈ l, x.source = a.source ∧ e = { x with count := min 255 (x.count + a.count), detail := a.detail } := by
  induction l with
  | nil => exact .inr (.inl ⟨List.mem_singleton.mp h, by simp⟩)
  | cons x xs ih =>
    rw [List.map_cons, List.nodup_cons] at nodup
    unfold absorb at h
    split at h
    · next same =>
      rcases List.mem_cons.mp h with rfl | h
      · exact .inr (.inr ⟨x, List.mem_cons_self, same, rfl⟩)
      · refine .inl ⟨List.mem_cons_of_mem _ h, fun e' => nodup.1 ?_⟩
        rw [same, ← e']
        exact List.mem_map_of_mem h
    · next other =>
      rcases List.mem_cons.mp h with rfl | h
      · exact .inl ⟨List.mem_cons_self, other⟩
      · rcases ih nodup.2 h with ⟨he, n⟩ | ⟨he, n⟩ | ⟨y, hy, same, he⟩
        · exact .inl ⟨List.mem_cons_of_mem _ he, n⟩
        · refine .inr (.inl ⟨he, ?_⟩)
          rw [List.map_cons, List.mem_cons]
          exact fun e' => e'.elim (fun e' => other e'.symm) n
        · exact .inr (.inr ⟨y, List.mem_cons_of_mem _ hy, same, he⟩)

/-- What an entry of a merged list has of the entries of its source (R135). -/
def MergedFrom (l : List SourceEntry) (e : SourceEntry) : Prop :=
  ∃ x rest, l.filter (fun y => y.source == e.source) = x :: rest ∧ e.first = x.first ∧
    e.count = min 255 ((x :: rest).map (·.count)).sum ∧ some e.detail = ((x :: rest).getLast?).map (·.detail)

theorem mergeEntries_from {l : List SourceEntry} (counts : ∀ e ∈ l, e.count ≤ 255) :
    ∀ e ∈ mergeEntries l, MergedFrom l e := by
  induction l using List.reverseRecOn with
  | nil => exact fun e he => nomatch he
  | append_singleton l a ih =>
    have ih := ih fun e he => counts e (List.mem_append_left _ he)
    have small : a.count ≤ 255 := counts a (List.mem_append_right _ (List.mem_singleton.mpr rfl))
    intro e he
    rw [mergeEntries_append] at he
    rcases mem_absorb (mergeEntries_nodup l) he with ⟨he, n⟩ | ⟨rfl, new⟩ | ⟨x, hx, same, rfl⟩
    · obtain ⟨x, rest, filter, items⟩ := ih e he
      refine ⟨x, rest, ?_, items⟩
      rw [List.filter_append, filter]
      simp [Ne.symm n]
    · rw [mergeEntries_sources, List.mem_eraseDups] at new
      refine ⟨e, [], ?_, rfl, by simpa using (Nat.min_eq_right small).symm, rfl⟩
      rw [List.filter_append, List.filter_eq_nil_iff.mpr]
      · simp
      · intro y hy
        simpa using fun (h : y.source = e.source) => new (h ▸ List.mem_map_of_mem hy)
    · obtain ⟨y, rest, filter, first, count, _⟩ := ih x hx
      refine ⟨y, rest ++ [a], ?_, first, ?_, ?_⟩
      · rw [List.filter_append]
        show (l.filter fun y => y.source == x.source) ++ _ = _
        rw [filter]
        simp [same]
      · show min 255 (x.count + a.count) = _
        rw [count]
        simp
        omega
      · rw [← List.cons_append, List.getLast?_append]
        rfl

theorem mergeEntries_ne_nil {l : List SourceEntry} (h : l ≠ []) : mergeEntries l ≠ [] := by
  induction l using List.reverseRecOn with
  | nil => exact absurd rfl h
  | append_singleton l e _ =>
    rw [mergeEntries_append]
    cases mergeEntries l with
    | nil => nofun
    | cons x xs =>
      unfold absorb
      split <;> nofun

theorem mgmt_port_loss_empties_lane : Claims.MgmtPortLossEmptiesLane := by
  intro s up free
  refine ⟨s.mgmtDown, congrArg Host.Outcome.next (mgmtPort_loss up free), rfl, mgmtDown_mgmtUp, rfl, rfl, rfl, rfl, rfl,
    rfl, rfl, rfl, rfl, rfl, fun c none_ n => ?_, fun c some_ on => ?_⟩
  · rw [mgmtDown_channel, none_, handBack_nil]
    exact feedsRaised_other _ _ s c n
  · rw [mgmtDown_channel, handBack_enabled ((feedsRaised_enabled _ _ s c).trans on) some_]
    refine ⟨?_, rfl⟩
    have filled := mergeEntries_ne_nil (List.append_ne_nil_of_left_ne_nil some_
      (feedsRaised .silentPort (s.activeOf s.mgmtPort) s).channels[c].list)
    simpa [Channel.pending] using filled

theorem mgmt_port_loss_resets : Claims.MgmtPortLossResets := fun _ up armed =>
  congrArg Host.Outcome.next (mgmtPort_loss_resets up armed)

theorem entries_handed_back : Claims.EntriesHandedBack := by
  refine ⟨fun s c up free => ⟨s.mgmtDown, congrArg Host.Outcome.next (mgmtPort_loss up free), fun on some_ => ?_,
    fun none_ => ?_⟩, fun l counts => ⟨mergeEntries_sources l, mergeEntries_from counts⟩⟩
  · rw [mgmtDown_channel, handBack_enabled ((feedsRaised_enabled _ _ s c).trans on) some_]
  · rw [mgmtDown_channel]
    rcases none_ with off | none_
    · exact handBack_disabled _ ((feedsRaised_enabled _ _ s c).trans off)
    · exact none_ ▸ handBack_nil _

/-- Settles O41. -/
theorem carrierPortsAndReference : Obligations.CarrierPortsAndReference :=
  ⟨relock_takes_marker, port_lock_raises_nothing, port_loss_raises_silent_port, mgmt_port_loss_empties_lane,
    mgmt_port_loss_resets, entries_handed_back⟩

end Sys2Proof.Machine
end

section
/-! SUPPORT. The latch and the followed plans (R10 to R13, R76), and the turns of the Capture Unit (R105 to R110). -/

namespace Sys2Proof.Machine

/-! ## What the latch reads (R10 to R13) -/

theorem carrySet_eq (s : State) (i : SpokeId) : s.carrySet i =
    if s.spokes[i].state = .live then ((s.followedEntry i).map (·.cells)).getD noCells else noCells := by
  unfold State.carrySet
  cases s.followedEntry i <;> rfl

theorem latch_carry (s : State) (i : SpokeId) : s.latch.carry[i] = s.carrySet i := tabulate_get _ i

theorem latch_sum (s : State) (i : SpokeId) : s.latch.sum[i] = s.sumSet i := tabulate_get _ i

theorem latch_reads_plans : Claims.LatchReadsPlans := fun s i =>
  ⟨(latch_carry s i).trans (carrySet_eq s i), by rw [latch_sum, latch_carry]; rfl, fun f => mapTable_get _ _ f⟩

theorem follower_rule : Claims.FollowerRule := by
  intro s i n order place
  have pos : s.engine.sweepPos i = n.val := sweepPos_of_place order place
  refine ⟨pos, ?_⟩
  unfold Engine.followedSlot Engine.followsB
  rw [pos]
  simp only [decide_eq_true_eq]

/-! ## The lines that a latch clears (R13) -/

theorem latchLines_get (old new : Vector Cells 32) (lines : Lines) (i : SpokeId) (k : CellPos) :
    (latchLines old new lines)[i][k] = if keepsFeed old[i][k] new[i][k] then lines[i][k] else [] := by
  unfold latchLines
  rw [tabulate_get, tabulate_get]

theorem keepsFeed_iff (old new : Option Cell) : keepsFeed old new = true ↔ new.map (·.feed) = old.map (·.feed) := by
  unfold keepsFeed
  rw [beq_iff_eq, eq_comm]

theorem latchLines_kept {old new : Vector Cells 32} (lines : Lines) {i : SpokeId} {k : CellPos}
    (same : new[i][k].map (·.feed) = old[i][k].map (·.feed)) : (latchLines old new lines)[i][k] = lines[i][k] := by
  rw [latchLines_get, if_pos ((keepsFeed_iff _ _).mpr same)]

theorem latchLines_cleared {old new : Vector Cells 32} (lines : Lines) {i : SpokeId} {k : CellPos}
    (changed : new[i][k].map (·.feed) ≠ old[i][k].map (·.feed)) (n : Fin 256) :
    tap n (latchLines old new lines)[i][k] = ⟨0, 0⟩ := by
  rw [latchLines_get, if_neg (fun keeps => changed ((keepsFeed_iff _ _).mp keeps))]
  rfl

theorem replicate_get {α : Type} {n : Nat} (a : α) (i : Fin n) : (Vector.replicate n a)[i] = a :=
  Vector.getElem_replicate i.isLt

theorem lines_cleared_at_latch : Claims.LinesClearedAtLatch := fun s i _ =>
  ⟨latchLines_kept s.fabric.downLines, latchLines_cleared s.fabric.downLines, latchLines_kept s.fabric.upLines,
    latchLines_cleared s.fabric.upLines, replicate_get 0 i, mapTable_get _ _ i, fun f => replicate_get false f⟩

/-- Settles O40. -/
theorem latchAndFollowers : Obligations.LatchAndFollowers := ⟨latch_reads_plans, follower_rule, lines_cleared_at_latch⟩

/-! ## A boundary's event at the Capture Unit (R107) -/

/-- The event: what was in progress has ended, and the decision is taken from there; nothing but the unit changes. -/
theorem captureEvent_decides (s : State) :
    s.captureEvent = { s with capture := s.captureEvent.capture, due := { s.due with capture := false } } ∧
    CollectionDecided { s with capture := s.capture.endCollection } s.captureEvent := by
  constructor
  · unfold State.captureEvent
    rw [decideCollection_frame]
    rfl
  · exact decideCollection_decides
      { s with due := { s.due with capture := false }, capture := s.capture.endCollection }

theorem endCollection_idle {u : Capture} (h : u.collection = none) : u.endCollection = u := by
  unfold Capture.endCollection
  rw [h]

theorem captureStartTurn_due {s : State} (due : s.due.capture = true) (idle : s.capture.collection = none) :
    s.captureStartTurn = s.captureEvent := if_pos (by rw [due, idle]; rfl)

theorem captureEndTurn_due {s : State} {c : Collection} (due : s.due.capture = true)
    (running : s.capture.collection = some c) : s.captureEndTurn = s.captureEvent := if_pos (by rw [due, running]; rfl)

theorem captureStartTurn_over {s : State} (past : s.due.capture = false) : s.captureStartTurn = s :=
  if_neg (by simp [past])

theorem captureEndTurn_over {s : State} (past : s.due.capture = false) : s.captureEndTurn = s :=
  if_neg (by simp [past])

theorem collection_begins : Claims.CollectionBegins := by
  refine fun s => ⟨fun due idle => ?_, fun past => ⟨congrArg Host.Outcome.next (captureStartTurn_over past),
    congrArg Host.Outcome.next (captureEndTurn_over past)⟩⟩
  obtain ⟨frame, decided⟩ := captureEvent_decides s
  rw [endCollection_idle idle] at decided
  exact ⟨_, congrArg Host.Outcome.next (captureStartTurn_due due idle), frame, decided⟩

/-! ## The end of a collection (R107, R108, R110) -/

theorem endCollection_running {u : Capture} {c : Collection} (h : u.collection = some c) : u.endCollection =
    { u with
      collection := none
      single := if u.single = some c.target then none else u.single
      buffer := some ⟨c.target, c.frame, u.single == some c.target, c.forContinuous, c.live, c.measured⟩
      missed := if u.buffer.isSome then min 255 (u.missed + 1) else u.missed } := by
  unfold Capture.endCollection
  rw [h]
  dsimp only [Capture.resultOf, Capture.place]
  simp only [beq_iff_eq]

theorem measured_power {c : Collection} (h : c.target.kind = .power) :
    c.measured = .power (scalePower c.powerSum c.samplesSeen) (scalePower c.powerPeak 1) c.downlink := by
  unfold Collection.measured
  rw [h]

theorem measured_raw {c : Collection} (h : c.target.kind = .raw) :
    c.measured = .raw ((c.firstSamples ++ List.replicate 32 Sample.zero).take 32) := by
  unfold Collection.measured
  rw [h]

/-- A list of samples brought to 32 with zero samples. -/
theorem padded_get (l : List Sample) {n : Nat} (h : n < 32) :
    ((l ++ List.replicate 32 Sample.zero).take 32)[n]? = some ((l[n]?).getD ⟨0, 0⟩) := by
  rw [List.getElem?_take_of_lt h, List.getElem?_append]
  split
  next inside => simp [inside]
  next outside =>
    rw [List.getElem?_replicate, if_pos (by omega), List.getElem?_eq_none (by omega)]
    rfl

theorem collection_ends_in_buffer : Claims.CollectionEndsInBuffer := by
  intro s c due running
  obtain ⟨frame, decided⟩ := captureEvent_decides s
  rw [endCollection_running running] at decided
  refine ⟨_, c.measured, congrArg Host.Outcome.next (captureEndTurn_due due running), frame, decided, fun power => ?_,
    fun raw => ⟨_, measured_raw raw, by simp, fun n h => padded_get _ h⟩⟩
  rw [measured_power power]
  simp only [scalePower, Nat.one_mul]

/-! ## What a collection takes, and its mark (R108, R109) -/

theorem samplePeriod_capture (s : State) (p : SamplePeriod) : (s.samplePeriod p).capture =
    { s.capture with
      collection := s.capture.collection.map fun c => c.take (s.received p c.target.spoke c.target.pos) } := rfl

theorem received_locked {s : State} (p : SamplePeriod) {i : SpokeId} (k : CellPos) (locked : s.links[i].locked = true)
    (whole : s.links[i].damaged = 0) : s.received p i k = (p.spokes.lookup (i, k)).getD ⟨0, 0⟩ :=
  if_pos (by rw [locked, whole]; rfl)

theorem received_nothing {s : State} (p : SamplePeriod) {i : SpokeId} (k : CellPos)
    (h : s.links[i].locked = false ∨ 0 < s.links[i].damaged) : s.received p i k = ⟨0, 0⟩ := by
  refine if_neg ?_
  rw [Bool.and_eq_true, beq_iff_eq]
  rintro ⟨locked, whole⟩
  rcases h with h | h
  · rw [h] at locked
    cases locked
  · omega

theorem collection_taps_samples : Claims.CollectionTapsSamples := by
  refine fun s p => ⟨fun idle => ?_, fun c running => ⟨s.received p c.target.spoke c.target.pos,
    received_locked p c.target.pos, received_nothing p c.target.pos, ?_⟩⟩
  · rw [samplePeriod_capture, idle, Option.map_none, ← idle]
  · rw [samplePeriod_capture, running]
    rfl

theorem goDark_capture {s : State} {i : SpokeId} (live : s.spokes[i].state = .live) : (s.goDark i).capture =
    { s.capture with
      collection := s.capture.collection.map fun c => if c.target.spoke = i then { c with live := false } else c } := by
  unfold State.goDark
  rw [mapLink_capture]
  exact enterDark_capture s i live

theorem departure_marks_collection : Claims.DepartureMarksCollection := by
  intro i s live marked
  refine ⟨⟨_, congrArg Host.Outcome.next (linkLoss_goDark (by rw [live]; decide)), ?_⟩, fun tag b r hb =>
    ⟨fun hc => ⟨s.goDark i, answers_of r rfl hc rfl (spokeRetrain_goDark hb), goDark_capture live⟩, fun free =>
      ⟨fun hc => ⟨_, answers_of r rfl hc rfl (spokeIsolate_free hb free), moveSpoke_capture s i _ live⟩,
        fun hc => ⟨_, answers_of r rfl hc rfl (spokeQuiet_live hb free live), moveSpoke_capture s i _ live⟩⟩⟩⟩
  rw [raise_capture]
  exact goDark_capture live

/-- Settles O50. -/
theorem captureTurns : Obligations.CaptureTurns :=
  ⟨collection_begins, collection_ends_in_buffer, collection_taps_samples, departure_marks_collection⟩

end Sys2Proof.Machine
end

section
/-! SUPPORT. The evaluations of the Fault Qualifier: the modes on one record, one kind at one spoke, and the spoke's whole
evaluation as the turns PERSIST_QUALIFY and QUALIFIER_WINDOW_END (R113, R114, R117 to R123). -/

namespace Sys2Proof.Machine

/-! ## A FRAME_ERRORS record at a boundary (R119) -/

/-- The record that a boundary leaves of a running FRAME_ERRORS window. -/
def QualRec.lowered (q : QualRec) : QualRec := if q.window ≤ 1 then q.idle else { q with window := q.window - 1 }

theorem frameErrorsBoundary_open {s : State} {i : SpokeId}
    (isOpen : (s.qual i .frameErrors).state = .armed ∨ (s.qual i .frameErrors).state = .qualified) :
    s.frameErrorsBoundary i = s.setQual i .frameErrors (s.qual i .frameErrors).lowered := by
  unfold State.frameErrorsBoundary
  dsimp only
  split
  next => rfl
  next => rfl
  next idle => rw [idle] at isOpen; simp at isOpen
  next measuring => rw [measuring] at isOpen; simp at isOpen

theorem frameErrorsBoundary_idle {s : State} {i : SpokeId} (idle : (s.qual i .frameErrors).state = .idle) :
    s.frameErrorsBoundary i = s := by
  unfold State.frameErrorsBoundary
  dsimp only
  rw [idle]

theorem lowered_running {q : QualRec} (h : 1 < q.window) : q.lowered = { q with window := q.window - 1 } :=
  if_neg (by omega)

theorem lowered_ending {q : QualRec} (h : q.window ≤ 1) : q.lowered = ⟨.idle, q.seen, 0, 0, 0, 0⟩ := if_pos h

theorem setQual_elsewhere (s : State) {i j : SpokeId} {k l : FaultKind} (q : QualRec) (h : j ≠ i ∨ l ≠ k) :
    (s.setQual i k q).qual j l = s.qual j l := by
  by_cases same : j = i
  · subst same
    exact setQual_other s j l k q (h.resolve_left (· rfl))
  · unfold State.qual
    simp only [setQual_row s i j k q same]

theorem errors_window_lowered : Claims.ErrorsWindowLowered := by
  intro s i q t
  refine ⟨fun h => ?_, fun lit isOpen => ?_⟩
  · by_cases dark : s.spokes[i].state = .dark
    · exact evaluate_dark s i _ dark
    · exact (evaluate_errors s i dark).trans (frameErrorsBoundary_idle (h.resolve_left dark))
  · have moves : t = s.setQual i .frameErrors q.lowered :=
      (evaluate_errors s i lit).trans (frameErrorsBoundary_open isOpen)
    rw [moves]
    refine ⟨rfl, fun j k h => setQual_elsewhere s _ h, fun more => ?_, fun last => ?_⟩
    · rw [setQual_qual, lowered_running more]
    · rw [setQual_qual, lowered_ending last]

/-! ## The modes on one record (R117, R118, R120, R121) -/

section Modes

variable {st : Settings} {q : QualRec}

theorem evaluateRecord_idle_stays {holds : Bool} (cut : Bool) (idle : q.state = .idle)
    (quiet : (holds && !q.seen) = false) : evaluateRecord st holds cut q = ⟨q, false, none⟩ := by
  unfold evaluateRecord
  rw [idle, quiet]
  cases st.mode <;> rfl

theorem evaluateRecord_qualified (holds cut : Bool) (qualified : q.state = .qualified) (mode : st.mode ≠ .duration) :
    evaluateRecord st holds cut q = if holds then ⟨q, false, none⟩ else ⟨q.idle, false, none⟩ := by
  unfold evaluateRecord
  rw [qualified]
  cases hm : st.mode with
  | duration => exact absurd hm mode
  | immediate | persist | count => rfl

theorem evaluateRecord_immediate (cut : Bool) (mode : st.mode = .immediate) (idle : q.state = .idle)
    (onset : q.seen = false) : evaluateRecord st true cut q = ⟨{ q with state := .qualified }, true, none⟩ := by
  unfold evaluateRecord
  rw [mode, idle, onset]
  rfl

theorem evaluateRecord_persist_onset (cut : Bool) (mode : st.mode = .persist) (idle : q.state = .idle)
    (onset : q.seen = false) :
    evaluateRecord st true cut q = ⟨{ q with state := .armed, held := 0 }, false, none⟩ := by
  unfold evaluateRecord
  rw [mode, idle, onset]
  rfl

theorem evaluateRecord_persist_armed (holds cut : Bool) (mode : st.mode = .persist) (armed : q.state = .armed) :
    evaluateRecord st holds cut q =
      if holds then
        if q.held + 1 = st.n * unitFrames st.unit then
          ⟨{ q with state := .qualified, held := q.held + 1 }, true, none⟩
        else ⟨{ q with held := q.held + 1 }, false, none⟩
      else ⟨q.idle, false, none⟩ := by
  unfold evaluateRecord
  rw [mode, armed]

theorem evaluateRecord_count_onset (cut : Bool) (mode : st.mode = .count) (idle : q.state = .idle)
    (onset : q.seen = false) : evaluateRecord st true cut q = ⟨openWindow st q, st.n == 1, none⟩ := by
  unfold evaluateRecord
  rw [mode, idle, onset]
  rfl

theorem evaluateRecord_count_ends (holds cut : Bool) (mode : st.mode = .count) (armed : q.state = .armed)
    (last : q.window ≤ 1) : evaluateRecord st holds cut q =
      if holds && !q.seen then ⟨openWindow st q.idle, st.n == 1, none⟩ else ⟨q.idle, false, none⟩ := by
  unfold evaluateRecord
  rw [mode, armed]
  exact if_pos last

theorem evaluateRecord_count_runs (holds cut : Bool) (mode : st.mode = .count) (armed : q.state = .armed)
    (more : 1 < q.window) : evaluateRecord st holds cut q =
      if holds && !q.seen then
        if q.count + 1 = st.n then
          ⟨{ q with state := .qualified, count := q.count + 1, window := q.window - 1 }, true, none⟩
        else ⟨{ q with count := q.count + 1, window := q.window - 1 }, false, none⟩
      else ⟨{ q with window := q.window - 1 }, false, none⟩ := by
  unfold evaluateRecord
  rw [mode, armed]
  exact if_neg (by omega)

theorem evaluateRecord_duration_onset (cut : Bool) (mode : st.mode = .duration) (idle : q.state = .idle)
    (onset : q.seen = false) :
    evaluateRecord st true cut q = ⟨{ q with state := .measuring, measured := 0 }, false, none⟩ := by
  unfold evaluateRecord
  rw [mode, idle, onset]
  rfl

theorem evaluateRecord_duration_measures (holds cut : Bool) (mode : st.mode = .duration) (measuring : q.state = .measuring) :
    evaluateRecord st holds cut q =
      if holds then ⟨{ q with measured := min (65535 * unitFrames st.unit) (q.measured + 1) }, false, none⟩
      else ⟨q.idle, false, some (if cut then q.measured else min (65535 * unitFrames st.unit) (q.measured + 1))⟩ := by
  unfold evaluateRecord
  rw [mode, measuring]

/-- A qualification ends no measurement. -/
theorem evaluateRecord_qualifies {holds cut : Bool} (h : (evaluateRecord st holds cut q).qualifies = true) :
    (evaluateRecord st holds cut q).measured = none := by
  revert h
  unfold evaluateRecord
  dsimp only
  repeat' split
  all_goals simp

end Modes

theorem count_mode {st : Settings} {q : QualRec} (mode : st.mode = .count) (armed : q.state = .armed)
    (more : 1 < q.window) :
    evaluateRecord st false false q = ⟨{ q with window := q.window - 1 }, false, none⟩ ∧
    (q.seen = true → evaluateRecord st true false q = ⟨{ q with window := q.window - 1 }, false, none⟩) ∧
    (q.seen = false → q.count + 1 ≠ st.n →
      evaluateRecord st true false q = ⟨{ q with count := q.count + 1, window := q.window - 1 }, false, none⟩) ∧
    (q.seen = false → q.count + 1 = st.n → evaluateRecord st true false q =
      ⟨{ q with state := .qualified, count := q.count + 1, window := q.window - 1 }, true, none⟩) := by
  refine ⟨?_, fun seen => ?_, fun onset fewer => ?_, fun onset full => ?_⟩ <;>
    rw [evaluateRecord_count_runs _ false mode armed more]
  · rfl
  · rw [if_neg (by simp [seen])]
  · rw [if_pos (by simp [onset]), if_neg fewer]
  · rw [if_pos (by simp [onset]), if_pos full]

theorem condition_modes : Claims.ConditionModes := by
  intro st q idle opened holding gone
  refine ⟨fun i => ⟨evaluateRecord_idle_stays false i rfl, fun seen => evaluateRecord_idle_stays false i (by rw [seen]; rfl)⟩,
    fun h mode => ⟨evaluateRecord_qualified true false h mode, evaluateRecord_qualified false false h mode⟩,
    fun mode i onset => evaluateRecord_immediate false mode i onset,
    fun mode => ⟨fun i onset => evaluateRecord_persist_onset false mode i onset, fun armed =>
      ⟨evaluateRecord_persist_armed false false mode armed, fun full => ?full, fun fewer => ?fewer⟩⟩,
    fun mode => ⟨fun i onset => evaluateRecord_count_onset false mode i onset, fun armed last =>
      ⟨evaluateRecord_count_ends false false mode armed last, fun seen => ?seen, fun onset => ?onset⟩,
      fun armed more => count_mode mode armed more⟩,
    fun mode => ⟨fun i onset => evaluateRecord_duration_onset false mode i onset, fun measuring =>
      ⟨evaluateRecord_duration_measures true false mode measuring, evaluateRecord_duration_measures false false mode measuring,
        evaluateRecord_duration_measures false true mode measuring⟩⟩⟩
  case full => exact (evaluateRecord_persist_armed true false mode armed).trans (if_pos full)
  case fewer => exact (evaluateRecord_persist_armed true false mode armed).trans (if_neg fewer)
  case seen => exact (evaluateRecord_count_ends true false mode armed last).trans (if_neg (by simp [seen]))
  case onset => exact (evaluateRecord_count_ends true false mode armed last).trans (if_pos (by simp [onset]))

/-! ## One condition kind at one spoke (R113, R114, R121, R122) -/

section Condition

variable {s : State} {i : SpokeId} {k : FaultKind}

/-- Whether the condition is taken as holding at the spoke's evaluation: in TRAINING it is not (R114). -/
def State.takenHolds (s : State) (i : SpokeId) (k : FaultKind) : Bool := s.holds i k && s.spokes[i].state != .training

theorem takenHolds_eq (s : State) (i : SpokeId) (k : FaultKind) :
    (!decide (s.spokes[i].state = .training) && s.holds i k) = s.takenHolds i k := Bool.and_comm _ _

theorem evaluation_eq (s : State) (i : SpokeId) (k : FaultKind) : s.evaluation i k =
    evaluateRecord (s.settingsOf k) (s.takenHolds i k) (s.spokes[i].state == .training) (s.qual i k) := by
  rw [← takenHolds_eq]
  rfl

/-- The state in which the kind's record is written and nothing is raised yet. -/
def State.recorded (i : SpokeId) (k : FaultKind) (s : State) : State :=
  s.setQual i k { (s.evaluation i k).record with seen := s.takenHolds i k }

theorem evaluateCondition_qualifying (q : (s.evaluation i k).qualifies = true) :
    s.evaluateCondition i k = (s.recorded i k).qualify i k (s.conditionDetail i k) := by
  have m : (s.evaluation i k).measured = none := evaluateRecord_qualifies q
  unfold State.evaluateCondition State.recorded
  dsimp only
  rw [m, if_pos q, takenHolds_eq]

theorem evaluateCondition_plain (q : (s.evaluation i k).qualifies = false) (m : (s.evaluation i k).measured = none) :
    s.evaluateCondition i k = s.recorded i k := by
  unfold State.evaluateCondition State.recorded
  dsimp only
  rw [m, if_neg (by rw [q]; decide), takenHolds_eq]

theorem evaluateCondition_measured {n : Nat} (q : (s.evaluation i k).qualifies = false)
    (m : (s.evaluation i k).measured = some n) : s.evaluateCondition i k =
      (s.recorded i k).raiseDuration i k n (s.spokes[i].state == .training) := by
  unfold State.evaluateCondition State.recorded
  dsimp only
  rw [m, if_neg (by rw [q]; decide), takenHolds_eq]
  rfl

theorem evaluateCondition_recorded (s : State) (i : SpokeId) (k : FaultKind) :
    (s.evaluateCondition i k).quals = (s.recorded i k).quals := by
  rw [evaluateCondition_quals, takenHolds_eq]
  rfl

theorem evaluateCondition_qualified (q : (s.evaluation i k).qualifies = true) :
    Qualified s (s.evaluateCondition i k) i k (s.conditionDetail i k) := by
  rw [evaluateCondition_qualifying q]
  exact (qualify_qualified (s.recorded i k) i k _).of_same rfl rfl rfl

/-- The record after a condition kind's evaluation. -/
theorem evaluate_condition_qual (lit : s.spokes[i].state ≠ .dark) (condition : k ≠ .frameErrors) :
    (s.evaluate i k).qual i k = { (s.evaluation i k).record with seen := s.takenHolds i k } := by
  rw [evaluate_condition s i k lit condition]
  unfold State.qual
  rw [evaluateCondition_recorded]
  exact setQual_qual s i k _

end Condition

theorem condition_evaluated : Claims.ConditionEvaluated := by
  intro s i k t
  refine ⟨evaluate_dark s i k, fun condition lit => ?_, ?_, ?_, fun l level => ?_, fun l level => ?_, rfl, rfl, rfl,
    fun o optical => ?_⟩
  · have moves : t = s.evaluateCondition i k := evaluate_condition s i k lit condition
    rw [moves]
    intro holds cut e
    have evaluation : s.evaluation i k = e := evaluation_eq s i k
    rw [← evaluation]
    refine ⟨evaluateCondition_recorded s i k, evaluateCondition_qualified, fun q m => ?_, fun n q m => ?_⟩
    · rw [evaluateCondition_plain q m]
      rfl
    · rw [evaluateCondition_measured q m]
      rfl
  · exact beq_iff_eq
  · exact bne_iff_ne
  · unfold State.holds
    rw [level]
    simp
  · unfold State.holds
    rw [level]
    cases s.spokes[i].optical <;> simp
  · unfold State.conditionDetail
    rw [optical]
    rfl

theorem whole_spoke_evaluated : Claims.WholeSpokeEvaluated := evaluateSpoke_qual

/-! ## The spoke's whole evaluation as a turn (R114) -/

/-- The boundary in hand has no evaluation of the spoke left. -/
def State.evaluationTaken (i : SpokeId) (s : State) : State := { s with due := { s.due with eval := s.due.eval.set i false } }

theorem evaluateTurn_due {s : State} {i : SpokeId} (due : s.due.eval[i] = true) :
    s.evaluateTurn i = (s.evaluationTaken i).evaluateSpoke i := if_pos due

theorem evaluateSpoke_isolates (s : State) (i : SpokeId) : Isolates i s (s.evaluateSpoke i) :=
  evaluates_isolates i allKinds s

/-- The turn leaves the other spokes, and all but what an evaluation may change. -/
theorem evaluationTaken_leaves (s : State) (i : SpokeId) : let t := (s.evaluationTaken i).evaluateSpoke i
    (∀ j : SpokeId, j ≠ i → t.quals[j] = s.quals[j] ∧ t.spokes[j] = s.spokes[j]) ∧
      t = { s with quals := t.quals, spokes := t.spokes, engine := t.engine, channels := t.channels,
                   capture := t.capture, due := t.due } := by
  have isolates := evaluateSpoke_isolates (s.evaluationTaken i) i
  exact ⟨fun j n => ⟨evaluates_row i j n allKinds _, isolates.others j n⟩, isolates.self⟩

theorem evaluationTaken_same (s : State) (i : SpokeId) (k : FaultKind) : SameFor i k s (s.evaluationTaken i) :=
  ⟨rfl, rfl, rfl, .rfl, .rfl, rfl, rfl, rfl⟩

/-- What the turn makes of a kind's record, from the kind's own evaluation. -/
theorem evaluationTaken_qual (s : State) (i : SpokeId) (k : FaultKind) :
    ((s.evaluationTaken i).evaluateSpoke i).qual i k = (s.evaluate i k).qual i k := by
  rw [evaluateSpoke_qual]
  exact evaluate_same (evaluationTaken_same s i k)

/-- A condition kind that qualifies at the turn is raised on its channel. -/
theorem evaluationTaken_raises {s : State} {i : SpokeId} {k : FaultKind} (condition : k ≠ .frameErrors)
    (lit : s.spokes[i].state ≠ .dark) (q : (s.evaluation i k).qualifies = true)
    (on : s.channels[kindChannel k].enabled = true) :
    ∃ e ∈ ((s.evaluationTaken i).evaluateSpoke i).channels[kindChannel k].list,
      e.source = some i.val ∧ e.detail = s.conditionDetail i k :=
  evaluateSpoke_raises i k s _ (evaluationTaken_same s i k) rfl condition lit q (evaluateRecord_qualifies q) on

/-! ## PERSIST_QUALIFY (R118, R122, R123) -/

/-- A kind without the action ISOLATE leaves every spoke record at its evaluation. -/
theorem evaluate_spokes_plain (s : State) (i : SpokeId) {k : FaultKind} (plain : (s.settingsOf k).isolate = false) :
    (s.evaluate i k).spokes = s.spokes := by
  by_cases dark : s.spokes[i].state = .dark
  · rw [evaluate_dark s i k dark]
  by_cases errors : k = .frameErrors
  · subst errors
    rw [evaluate_errors s i dark]
    unfold State.frameErrorsBoundary
    dsimp only
    split <;> rfl
  rw [evaluate_condition s i k dark errors]
  cases q : (s.evaluation i k).qualifies with
  | true =>
    obtain ⟨_, leaves, _⟩ := evaluateCondition_qualified q
    exact leaves (.inl plain)
  | false =>
    cases m : (s.evaluation i k).measured with
    | none =>
      rw [evaluateCondition_plain q m]
      rfl
    | some n =>
      rw [evaluateCondition_measured q m]
      rfl

theorem Isolates.settings {i : SpokeId} {s t : State} (h : Isolates i s t) : t.settings = s.settings := by
  rw [h.self]

theorem evaluates_spokes_plain (i : SpokeId) (l : List FaultKind) (s : State)
    (plain : ∀ k ∈ l, (s.settingsOf k).isolate = false) : (l.foldl (fun t k => t.evaluate i k) s).spokes = s.spokes := by
  induction l generalizing s with
  | nil => rfl
  | cons k l ih =>
    refine (ih _ fun j hj => ?_).trans (evaluate_spokes_plain s i (plain k List.mem_cons_self))
    unfold State.settingsOf
    rw [(evaluate_isolates s i k).settings]
    exact plain j (List.mem_cons_of_mem _ hj)

section Isolating

variable {s : State} {i : SpokeId} {k : FaultKind}

/-- The hold after a kind with the action ISOLATE qualifies: that of the qualification, or the one it found. -/
theorem evaluate_hold (condition : k ≠ .frameErrors) (lit : s.spokes[i].state ≠ .dark)
    (q : (s.evaluation i k).qualifies = true) (acts : (s.settingsOf k).isolate = true) :
    (s.evaluate i k).spokes[i].hold = if s.spokes[i].hold.isolates then s.spokes[i].hold else .isolate (.fault k) := by
  rw [evaluate_condition s i k lit condition]
  obtain ⟨_, leaves, isolates⟩ := evaluateCondition_qualified q
  split
  next held => rw [leaves (.inr held)]
  next free =>
    obtain ⟨spokes, _⟩ := isolates acts (Bool.eq_false_iff.mpr free)
    rw [spokes, update_same]

/-- A spoke's evaluation in three parts: the kinds before one kind, that kind, and the kinds after it. -/
theorem evaluateSpoke_around (s : State) (i : SpokeId) (k : FaultKind) : ∃ before after : List FaultKind,
    k ∉ before ∧ k ∉ after ∧ s.evaluateSpoke i = after.foldl (fun t k => t.evaluate i k)
      ((before.foldl (fun t k => t.evaluate i k) s).evaluate i k) := by
  obtain ⟨a, b, split, ha, hb⟩ := allKinds_split k
  refine ⟨a, b, ha, hb, ?_⟩
  unfold State.evaluateSpoke
  rw [split, List.foldl_append, List.foldl_cons]

/-- The hold after the whole evaluation, where a kind with the action ISOLATE qualifies at it. -/
theorem evaluateSpoke_hold (condition : k ≠ .frameErrors) (lit : s.spokes[i].state ≠ .dark)
    (q : (s.evaluation i k).qualifies = true) (acts : (s.settingsOf k).isolate = true) :
    (s.evaluateSpoke i).spokes[i].hold.isolates = true ∧
    (s.spokes[i].hold.isolates = false → (∀ j : FaultKind, j ≠ k → (s.settingsOf j).isolate = false) →
      (s.evaluateSpoke i).spokes[i].hold = .isolate (.fault k)) := by
  obtain ⟨a, b, ha, hb, parts⟩ := evaluateSpoke_around s i k
  have isolates := evaluates_isolates i a s
  have same := isolates.same k (evaluates_kind i k a ha s)
  have plain := evaluates_spokes_plain i a s
  rw [parts]
  generalize a.foldl (fun t k => State.evaluate i k t) s = u at isolates same plain ⊢
  have acted : (u.settingsOf k).isolate = true := by
    unfold State.settingsOf
    rw [same.settings]
    exact acts
  have hold := evaluate_hold condition (fun d => lit (same.dark.mp d)) (by rw [same.evaluation]; exact q) acted
  have held : (u.evaluate i k).spokes[i].hold.isolates = true := by
    rw [hold]
    split
    next h => exact h
    next => rfl
  have kept := (evaluates_isolates i b (u.evaluate i k)).held held
  rw [kept]
  refine ⟨held, fun free alone => ?_⟩
  rw [hold, plain fun j hj => alone j (fun e => ha (e ▸ hj)), if_neg (by rw [free]; decide)]

end Isolating

theorem persist_qualifies : Claims.PersistQualifies := by
  intro i k s due condition lit trained mode armed holds full
  have taken : s.takenHolds i k = true := by
    unfold State.takenHolds
    rw [holds, Bool.true_and]
    exact bne_iff_ne.mpr trained
  have evaluation : s.evaluation i k =
      ⟨{ s.qual i k with state := .qualified, held := (s.qual i k).held + 1 }, true, none⟩ := by
    rw [evaluation_eq, taken, evaluateRecord_persist_armed _ _ mode armed, if_pos rfl, if_pos full]
  have q : (s.evaluation i k).qualifies = true := by rw [evaluation]
  have would : s.persistWouldQualify i k = true := by simp [State.persistWouldQualify, mode, condition, q]
  have moves : s.persistTurn i k = (s.evaluationTaken i).evaluateSpoke i := (if_pos would).trans (evaluateTurn_due due)
  have hold := evaluateSpoke_hold (s := s.evaluationTaken i) condition lit q
  obtain ⟨others, frame⟩ := evaluationTaken_leaves s i
  refine ⟨_, congrArg Host.Outcome.next moves, rfl, ?_, evaluationTaken_raises condition lit q,
    fun plain => evaluates_spokes_plain i allKinds _ fun j _ => plain j, fun acts => (hold acts).1,
    fun acts free alone => (hold acts).2 free alone, others, frame⟩
  rw [evaluationTaken_qual, evaluate_condition_qual lit condition, evaluation, taken]

/-! ## QUALIFIER_WINDOW_END (R119, R120) -/

theorem windowTurn_due {s : State} {i : SpokeId} {k : FaultKind} (due : s.due.eval[i] = true)
    (would : s.windowWouldEnd i k = true) : s.windowTurn i k = (s.evaluationTaken i).evaluateSpoke i :=
  (if_pos would).trans (evaluateTurn_due due)

theorem window_ends_idle : Claims.WindowEndsIdle := by
  intro i s due lit mode last isOpen
  have would : s.windowWouldEnd i .frameErrors = true := by
    unfold State.windowWouldEnd
    rcases isOpen with h | h <;> simp [mode, last, h]
  obtain ⟨others, frame⟩ := evaluationTaken_leaves s i
  refine ⟨_, congrArg Host.Outcome.next (windowTurn_due due would), rfl, ?_, others, frame⟩
  rw [evaluationTaken_qual, evaluate_errors s i lit, frameErrorsBoundary_open isOpen, setQual_qual, lowered_ending last]

theorem condition_window_ends : Claims.ConditionWindowEnds := by
  intro i k s condition due lit mode armed last
  have would : s.windowWouldEnd i k = true := by simp [State.windowWouldEnd, mode, last, armed]
  obtain ⟨others, frame⟩ := evaluationTaken_leaves s i
  have evaluation : s.evaluation i k = if s.takenHolds i k && !(s.qual i k).seen then
      ⟨openWindow (s.settingsOf k) (s.qual i k).idle, (s.settingsOf k).n == 1, none⟩
      else ⟨(s.qual i k).idle, false, none⟩ := by
    rw [evaluation_eq, evaluateRecord_count_ends _ _ mode armed last]
  have record := (evaluationTaken_qual s i k).trans (evaluate_condition_qual lit condition)
  refine ⟨_, congrArg Host.Outcome.next (windowTurn_due due would), rfl, ⟨fun none_ => ?ends, fun holds onset => ?opens⟩,
    others, frame⟩
  case ends =>
    have quiet : ¬(s.takenHolds i k && !(s.qual i k).seen) = true := by
      rcases none_ with none_ | seen
      · have taken : s.takenHolds i k = false := none_
        simp [taken]
      · simp [seen]
    rw [if_neg quiet] at evaluation
    rw [record, evaluation]
    rfl
  case opens =>
    have taken : s.takenHolds i k = true := holds
    rw [if_pos (by simp [taken, onset])] at evaluation
    refine ⟨?_, fun one on => evaluationTaken_raises condition lit ?_ on⟩
    · rw [record, evaluation, taken]
      rfl
    · rw [evaluation]
      exact beq_iff_eq.mpr one

/-- Settles O49. -/
theorem qualifierTurns : Obligations.QualifierTurns :=
  ⟨persist_qualifies, window_ends_idle, condition_window_ends, errors_window_lowered, condition_modes, condition_evaluated,
    whole_spoke_evaluated⟩

end Sys2Proof.Machine
end

section
/-! SUPPORT. What the reading commands answer, and METER READ's scale and body (R9, R49, R61, R89, R96, R104, R127, R140,
R149, R165, R171). -/

namespace Sys2Proof.Machine

/-! ## METER READ's scale and body (R171) -/

theorem meterShift_spec {values : List Nat} (h : ∀ v ∈ values, v ≤ 65535) :
    meterShift values ≤ 4 ∧ (∀ v ∈ values, v / 2 ^ meterShift values ≤ 4095) ∧
    ∀ n, n < meterShift values → ∃ v ∈ values, 4095 < v / 2 ^ n := by
  have fits : (values.all fun v => v / 2 ^ 4 ≤ 4095) = true := by
    rw [List.all_eq_true]
    intro v hv
    have := h v hv
    exact decide_eq_true (by omega)
  obtain ⟨top, hit, before⟩ := leastShift_spec 4 (fun s => values.all fun v => v / 2 ^ s ≤ 4095) fits
  refine ⟨top, fun v hv => ?_, fun n hn => ?_⟩
  · exact of_decide_eq_true (List.all_eq_true.mp hit v hv)
  · have misses := before n hn
    rw [List.all_eq_false] at misses
    obtain ⟨v, hv, exceeds⟩ := misses
    exact ⟨v, hv, by simpa using exceeds⟩

theorem meter_scale_least : Claims.MeterScaleLeast := fun _ h => meterShift_spec h

theorem staleBits (flags : List Bool) {n : Nat} (h : n < 32) :
    (BitVec.ofNat 32 (staleField flags)).getLsbD n = (flags[n]?).getD false := by
  rw [BitVec.getLsbD_ofNat, staleField_testBit]
  simp [h]

theorem meter_body_laid_out : Claims.MeterBodyLaidOut := by
  intro meters few bounded shift scaled
  refine ⟨_, packTwelve (meters.map scaled), meterBody_packed meters, fun n hn => ?_, ?_, fun n a b ha hb => ?_,
    fun n a ha len => ?_⟩
  · rw [staleBits _ hn, List.getElem?_map]
  · rw [packTwelve_length, List.length_map]
  · exact ⟨_, _, _, packTwelve_at n _ (scaled a) (scaled b) (by rw [List.getElem?_map, ha]; rfl)
      (by rw [List.getElem?_map, hb]; rfl), triBytes_joined _⟩
  · exact ⟨_, _, packTwelve_last n _ (scaled a) (by rw [List.length_map, len]) (by rw [List.getElem?_map, ha]; rfl),
      halfBytes_joined _⟩

/-! ## What each reading command answers -/

section Reads

variable {a b : Byte} (t : State)

theorem feedRead_answers {f : FeedId} (h : below 24 a = some f) : t.feedRead a = t.answer
    (u8 f ++ u8 t.feeds[f].state.code ++ u8 t.feeds[f].operator ++ u8 t.feeds[f].band ++ u8 t.feeds[f].level ++
      u8 (if t.ports[portOf f] then 0 else 1) ++
      opt8 (t.engine.bankA.map fun k => t.slots[k].plan.fanout f) ++
      opt8 (t.engine.bankB.map fun k => t.slots[k].plan.fanout f)) := by
  unfold State.feedRead
  rw [h]
  rfl

theorem spokeRead_answers {i : SpokeId} (h : below 32 a = some i) : t.spokeRead a = t.answer (t.spokeItems i) := by
  unfold State.spokeRead
  rw [h]

theorem planRead_answers {k : SlotId} {i : SpokeId} (hk : below 8 a = some k) (hi : below 32 b = some i) :
    t.planRead a b = t.answer (u8 k ++ u8 t.slots[k].state.code ++ u8 (t.engine.bindingCode k) ++
      failureBytes t.slots[k].failure ++ u8 i ++ opt8 (t.slots[k].plan[i].expect.map (·.val)) ++
      t.slots[k].plan[i].cells.toList.flatMap cellBytes ++ t.pointerAt k) := by
  unfold State.planRead
  rw [hk, hi]

theorem watchRead_answers {g : GroupId} (h : below 8 a = some g) : t.watchRead a = t.answer
    (u8 g ++ wordBytes t.groups[g].members ++ u24 t.groups[g].high ++ u24 t.groups[g].low ++ u8 t.groups[g].dwell ++
      reliefBytes t.groups[g].relief ++ u8 t.groups[g].state.code ++ u8 t.groups[g].remaining ++
      u8 t.groups[g].reliefState.code ++ u24 (t.load g) ++ u8 (t.staleMembers g)) := by
  unfold State.watchRead
  rw [h]

theorem meterRead_answers {bs : List Byte} {l : List SpokeId} (h : readAll (below 32) bs = some l) :
    t.meterRead bs = t.answer (meterBody (l.map fun i : SpokeId => t.meters[i])) := by
  unfold State.meterRead
  rw [h]

theorem qualifyRead_answers {k : FaultKind} {i : SpokeId} (hk : faultKindOf a = some k) (hi : below 32 b = some i) :
    t.qualifyRead a b = t.answer (u8 (faultKindCode k) ++ u8 (t.settingsOf k).mode.code ++
      u8 (t.settingsOf k).n ++ u8 (t.settingsOf k).window ++ u8 (t.settingsOf k).unit ++
      flag (t.settingsOf k).isolate ++ levelBytes (t.settingsOf k).level ++ u8 i ++ u8 (t.qual i k).state.code ++
      seenBytes k (t.qual i k) ++ u8 (t.qual i k).count ++ u16 (t.qual i k).window ++ u16 (t.qual i k).held ++
      u24 (t.qual i k).measured ++ u16 ((t.qual i k).measured / unitFrames (t.settingsOf k).unit)) := by
  unfold State.qualifyRead
  rw [hk, hi]

theorem alarmRead_answers {c : ChannelId} {i : Fin 32} (hc : below 16 a = some c) (hi : below 32 b = some i) :
    t.alarmRead a b = t.answer (u8 c ++ flag t.channels[c].enabled ++ flag t.channels[c].masked ++
      flag t.channels[c].pending ++ flag t.channels[c].inService ++ flag t.tracking ++
      u8 t.channels[c].list.length ++ u8 i ++ ((t.channels[c].list.drop i.val).take 6).flatMap SourceEntry.bytes) := by
  unfold State.alarmRead
  rw [hc, hi]

/-- A record's contents as STORE READ gives them (R149). -/
def RecordStatus.contentBytes : RecordStatus → List Byte
  | .valid c => flag true ++ c.bytes
  | .blank | .spoiled => [0, 0, 0, 0, 0]

theorem storeRead_answers {r : RecordId} (h : below 16 a = some r) : t.storeRead a = t.answer
    (u8 r ++ u8 t.store.records[r].code ++ t.store.records[r].contentBytes ++ flag (!t.store.intact[pageOf r]) ++
      flag (t.store.lookup r).isSome ++ flag t.store.withdrawing[pageOf r] ++
      flag t.store.locked ++ u8 t.store.engine.code ++ u8 t.store.engine.place) := by
  unfold State.storeRead
  rw [h]
  dsimp only
  cases t.store.records[r] <;> rfl

theorem u16_toNat (h : Half) : u16 h.toNat = halfBytes h := by
  unfold u16
  rw [BitVec.ofNat_toNat, BitVec.setWidth_eq]

theorem hubStatus_answers : t.hubStatus = t.answer
    ([0x04, 0x60, 1] ++ halfBytes t.frame ++ u8 t.reference.code ++ u8 t.mgmtPort ++ flag t.store.locked ++
      u8 t.store.engine.code ++ u8 t.engine.state.code ++ u8 t.engine.line ++ bindingBytes t.engine.bankA ++
      bindingBytes t.engine.bankB ++ flag t.lane.overrun ++ present8 (t.lane.firstTag.map (·.toNat)) ++
      u8 t.lane.discards ++ u8 (8 - t.lane.outbound.length) ++ flag t.lane.assembly.isSome ++
      flag (t.store.engine != .reading)) := by
  have part : u16 Config.partCode ++ u8 Config.revision = [0x04, 0x60, 1] := by decide
  unfold State.hubStatus Lane.free
  rw [part, u16_toNat]

end Reads

theorem reads_change_nothing : Claims.ReadsChangeNothing := by
  intro tag a b bs s t
  refine ⟨fun f hf hc => answers_of s rfl hc rfl (feedRead_answers t hf),
    fun i hi hc => answers_of s rfl hc rfl (spokeRead_answers t hi),
    fun k i hk hi hc => answers_of s rfl hc rfl (planRead_answers t hk hi),
    fun g hg hc => answers_of s rfl hc rfl (watchRead_answers t hg),
    fun l least most hl hc => answers_of s rfl hc (by simp [Instr.wf, least, most]) (meterRead_answers t hl),
    fun k i hk hi hc => answers_of s rfl hc rfl (qualifyRead_answers t hk hi),
    fun c i hc' hi hc => answers_of s rfl hc rfl (alarmRead_answers t hc' hi),
    fun r hr hc => ⟨_, answers_of s rfl hc rfl (storeRead_answers t hr), fun c valid => ?valid, fun empty => ?empty⟩,
    fun hc => answers_of s rfl hc rfl ?cutover, fun hc => answers_of s rfl hc rfl (hubStatus_answers t)⟩
  case valid => rw [valid]; rfl
  case empty => rcases empty with h | h <;> rw [h] <;> rfl
  case cutover => rfl

/-- Settles O55. -/
theorem readsAnswer : Obligations.ReadsAnswer := ⟨reads_change_nothing, meter_scale_least, meter_body_laid_out⟩

end Sys2Proof.Machine
end

section
/-! SUPPORT. The frame boundary (R1): what it does as it opens, and the evaluations that it takes (R114). -/

namespace Sys2Proof.Machine

/-! ## The evaluations that a boundary takes (R114; log 3) -/

/-- What the evaluation of a spoke reads and changes for the spoke itself is the same in two states. -/
structure SameAt (i : SpokeId) (s t : State) : Prop where
  quals : t.quals[i] = s.quals[i]
  spokes : t.spokes[i] = s.spokes[i]
  settings : t.settings = s.settings
  handed : t.handed = s.handed
  eval : t.due.eval[i] = s.due.eval[i]

theorem SameAt.trans {i : SpokeId} {s t u : State} (h : SameAt i s t) (k : SameAt i t u) : SameAt i s u :=
  ⟨k.quals.trans h.quals, k.spokes.trans h.spokes, k.settings.trans h.settings, k.handed.trans h.handed,
    k.eval.trans h.eval⟩

theorem SameAt.qual {i : SpokeId} {s t : State} (h : SameAt i s t) (k : FaultKind) : t.qual i k = s.qual i k := by
  unfold State.qual
  simp only [h.quals]

theorem SameAt.sameFor {i : SpokeId} {s t : State} (h : SameAt i s t) (k : FaultKind) : SameFor i k s t := by
  refine ⟨h.qual k, h.settings, h.handed, ?_, ?_, ?_, ?_, ?_⟩
  all_goals rw [h.spokes]

/-- Two rows of records are equal where every kind's records are. -/
theorem quals_ext {i : SpokeId} {s t : State} (h : ∀ k, t.qual i k = s.qual i k) : t.quals[i] = s.quals[i] := by
  have onto : ∀ n : Fin 5, ∃ k ∈ allKinds, kindIndex k = n := by decide
  apply Vector.ext
  intro n hn
  obtain ⟨k, _, hk⟩ := onto ⟨n, hn⟩
  have same := h k
  simp only [State.qual, hk] at same
  exact same

/-- A spoke's turn leaves every other spoke as it is. -/
theorem evaluateTurn_sameAt (s : State) {i j : SpokeId} (h : i ≠ j) : SameAt i s (s.evaluateTurn j) := by
  unfold State.evaluateTurn
  split
  · have isolates := evaluateSpoke_isolates (s.evaluationTaken j) j
    have row : ((s.evaluationTaken j).evaluateSpoke j).quals[i] = s.quals[i] := evaluates_row j i h allKinds _
    show SameAt i s ((s.evaluationTaken j).evaluateSpoke j)
    generalize (s.evaluationTaken j).evaluateSpoke j = t at isolates row ⊢
    refine ⟨row, isolates.others i h, isolates.settings, ?_, ?_⟩
    · rw [isolates.self]
      rfl
    · rw [isolates.eval]
      exact set_other _ _ h
  · exact ⟨rfl, rfl, rfl, rfl, rfl⟩

/-- One spoke's part of the evaluations that a boundary takes. -/
def State.restStep (t : State) (i : SpokeId) : State := if t.evaluationHasRow i then t else t.evaluateTurn i

theorem evaluateRest_eq (s : State) : s.evaluateRest = allSpokes.foldl State.restStep s := rfl

theorem restStep_sameAt (s : State) {i j : SpokeId} (h : i ≠ j) : SameAt i s (s.restStep j) := by
  unfold State.restStep
  split
  · exact ⟨rfl, rfl, rfl, rfl, rfl⟩
  · exact evaluateTurn_sameAt s h

theorem restSteps_sameAt {i : SpokeId} (l : List SpokeId) (h : i ∉ l) (s : State) :
    SameAt i s (l.foldl State.restStep s) := by
  induction l generalizing s with
  | nil => exact ⟨rfl, rfl, rfl, rfl, rfl⟩
  | cons j l ih =>
    rw [List.mem_cons, not_or] at h
    exact (restStep_sameAt s h.1).trans (ih h.2 _)

/-- The evaluations are, for one spoke, its own step between two states that agree on it. -/
theorem evaluateRest_at (s : State) (i : SpokeId) :
    ∃ t, SameAt i s t ∧ SameAt i (t.restStep i) s.evaluateRest := by
  obtain ⟨a, b, split⟩ := List.append_of_mem (List.mem_finRange i)
  have distinct := List.nodup_finRange 32
  rw [split, List.nodup_append, List.nodup_cons] at distinct
  obtain ⟨_, ⟨hb, _⟩, apart⟩ := distinct
  have ha : i ∉ a := fun h => apart i h i List.mem_cons_self rfl
  refine ⟨a.foldl State.restStep s, restSteps_sameAt a ha s, ?_⟩
  rw [evaluateRest_eq]
  unfold allSpokes
  rw [split, List.foldl_append, List.foldl_cons]
  exact restSteps_sameAt b hb _

/-- Whether a row stands for a spoke's evaluation is told by the spoke alone. -/
theorem SameAt.hasRow {i : SpokeId} {s t : State} (h : SameAt i s t) : t.evaluationHasRow i = s.evaluationHasRow i := by
  have persists (k : FaultKind) : t.persistWouldQualify i k = s.persistWouldQualify i k := by
    unfold State.persistWouldQualify State.settingsOf
    rw [(h.sameFor k).evaluation, h.settings]
  have ends (k : FaultKind) : t.windowWouldEnd i k = s.windowWouldEnd i k := by
    unfold State.windowWouldEnd State.settingsOf
    rw [h.qual k, h.settings]
  unfold State.evaluationHasRow
  simp only [persists, ends]

/-- What the evaluation makes of a spoke's records is told by the spoke alone. -/
theorem SameAt.evaluated {i : SpokeId} {s t : State} (h : SameAt i s t) :
    (t.evaluateSpoke i).quals[i] = (s.evaluateSpoke i).quals[i] := by
  refine quals_ext fun k => ?_
  rw [evaluateSpoke_qual, evaluateSpoke_qual]
  exact evaluate_same (h.sameFor k)

theorem evaluationTaken_quals (s : State) (i : SpokeId) :
    ((s.evaluationTaken i).evaluateSpoke i).quals[i] = (s.evaluateSpoke i).quals[i] := by
  refine quals_ext fun k => ?_
  rw [evaluateSpoke_qual, evaluateSpoke_qual]
  exact evaluate_same (evaluationTaken_same s i k)

theorem evaluationTaken_eval (s : State) (i : SpokeId) :
    ((s.evaluationTaken i).evaluateSpoke i).due.eval[i] = false :=
  (congrArg (fun v : Vector Bool 32 => v[i]) (evaluateSpoke_isolates (s.evaluationTaken i) i).eval).trans (set_same _ _ _)

theorem rest_evaluated : Claims.RestEvaluated := by
  intro s i
  obtain ⟨t, before, after⟩ := evaluateRest_at s i
  refine ⟨fun due plain => ?_, fun kept => ?_⟩
  · have step : t.restStep i = (t.evaluationTaken i).evaluateSpoke i := by
      unfold State.restStep
      rw [before.hasRow, plain, if_neg (by decide)]
      exact evaluateTurn_due (before.eval.trans due)
    rw [step] at after
    exact ⟨after.quals.trans ((evaluationTaken_quals t i).trans before.evaluated),
      after.eval.trans (evaluationTaken_eval t i)⟩
  · have step : t.restStep i = t := by
      unfold State.restStep
      rw [before.hasRow]
      split
      next => rfl
      next free =>
        exact if_neg (by rw [before.eval, kept.resolve_right free]; decide)
    rw [step] at after
    exact ⟨after.quals.trans before.quals, after.eval.trans before.eval⟩

/-! ## What each block does as the boundary opens -/

section Opens

variable (c : State)

theorem openBoundary_frame : c.openBoundary = { c with
    frame := c.frame + 1#16, fabric := c.latch, handed := c.openBoundary.handed, spokes := c.openBoundary.spokes
    meters := c.openBoundary.meters, groups := c.openBoundary.groups, engine := c.engine.boundary
    channels := c.openBoundary.channels, capture := c.openBoundary.capture
    store := { c.store with left := c.store.left - 1 }, lane := c.lane.nextFrame, due := c.openBoundary.due } := by
  rw [openBoundary_eq]
  rfl

theorem openBoundary_fabric : c.openBoundary.fabric = c.latch := by
  rw [openBoundary_eq]
  rfl

theorem openBoundary_handed (i : SpokeId) : c.openBoundary.handed[i] = c.energyOf i := by
  rw [openBoundary_eq]
  exact tabulate_get _ i

theorem openBoundary_meters (i : SpokeId) :
    c.openBoundary.meters[i] = c.meters[i].boundary c.spokes[i] (c.energyOf i) := by
  rw [openBoundary_eq]
  refine (tabulate_get _ i).trans ?_
  rw [tabulate_get]

theorem openBoundary_spokes (i : SpokeId) : c.openBoundary.spokes[i] = c.spokes[i].boundary := by
  rw [openBoundary_eq]
  exact mapTable_get _ _ i

theorem openBoundary_capture : c.openBoundary.capture = c.capture.boundary := by
  rw [openBoundary_eq]
  rfl

theorem openBoundary_due : c.openBoundary.due = { c.dueAtOpen with
    groups := tabulate fun g => c.groups[g].turns (c.advance.load g) } := by
  rw [openBoundary_eq]
  rfl

theorem openBoundary_groups : c.openBoundary.groups = tabulate fun g => c.groups[g].evaluate (c.advance.load g) := by
  rw [openBoundary_eq]
  rfl

theorem openBoundary_channels : c.openBoundary.channels =
    (feedsRaised .clip (fun f => c.fabric.saturated[f]) { c with frame := c.frame + 1#16 }).channels := by
  rw [openBoundary_eq]
  exact feedsRaised_channels _ _ _ _ rfl rfl

theorem evaluate_members (g : Group) (load : Nat) : (g.evaluate load).members = g.members := by
  unfold Group.evaluate
  repeat' split
  all_goals rfl

/-- A group's load is that of the updated meters, and the evaluation leaves its members (R95, R97). -/
theorem openBoundary_load (g : GroupId) : c.openBoundary.load g = c.advance.load g := by
  have members : c.openBoundary.groups[g].members = c.groups[g].members := by
    rw [openBoundary_groups, tabulate_get]
    exact evaluate_members _ _
  unfold State.load
  rw [members, openBoundary_eq]
  rfl

end Opens

/-- A spoke record at a boundary (R28, R30, R40): what it becomes, and which of its turns fall due. -/
theorem record_opens (r : SpokeRec) :
    (r.state = .dark → r.boundary = r ∧ r.pollDue = false) ∧
    (r.state = .training → r.pollDue = false ∧
      ((r.elapsed + 1) % 10 ≠ 0 → r.boundary = { r with elapsed := r.elapsed + 1 } ∧ r.trainDue = false) ∧
      ((r.elapsed + 1) % 10 = 0 → r.boundary = r ∧ r.trainDue = true)) ∧
    (r.state = .live → 0 < r.settle → r.pollDue = false ∧
      r.boundary = { r with settle := r.settle - 1, nextPoll := 1, outstanding := false }) ∧
    ((r.state = .live ∧ r.settle = 0) ∨ r.state = .quiet ∨ r.state = .isolated →
      (r.nextPoll ≤ 1 → r.boundary = r ∧ r.pollDue = true) ∧
      (1 < r.nextPoll → r.pollDue = false ∧ r.boundary = { r with nextPoll := r.nextPoll - 1 })) ∧
    (r.settleDue = true ↔ r.state = .live ∧ r.settle = 1) := by
  refine ⟨fun dark => ?_, fun training => ?_, fun live settles => ?_, fun polled => ?_, ?_⟩
  · simp [SpokeRec.boundary, SpokeRec.pollDue, SpokeRec.polled, dark]
  · refine ⟨by simp [SpokeRec.pollDue, SpokeRec.polled, training], fun other => ?_, fun tenth => ?_⟩
    · simp [SpokeRec.boundary, SpokeRec.trainDue, training, other]
    · simp [SpokeRec.boundary, SpokeRec.trainDue, training, tenth]
  · have unsettled : r.settle ≠ 0 := by omega
    simp [SpokeRec.boundary, SpokeRec.pollDue, SpokeRec.polled, live, unsettled]
  · have polls : r.polled = true := by
      rcases polled with ⟨live, settled⟩ | quiet | isolated <;> simp [SpokeRec.polled, *]
    have counts : r.boundary = if r.pollDue then r else { r with nextPoll := r.nextPoll - 1 } := by
      unfold SpokeRec.boundary
      rcases polled with ⟨live, settled⟩ | quiet | isolated
      · simp only [live, settled, if_true]
      · simp only [quiet]
      · simp only [isolated]
    have falls : r.pollDue = decide (r.nextPoll ≤ 1) := by simp [SpokeRec.pollDue, polls]
    rw [counts, falls]
    refine ⟨fun due => ?_, fun later => ?_⟩
    · simp [due]
    · have not_due : ¬ r.nextPoll ≤ 1 := by omega
      simp [not_due]
  · unfold SpokeRec.settleDue
    rw [Bool.and_eq_true, beq_iff_eq, beq_iff_eq]

/-- When a boundary's event at the Capture Unit does more than lower a count (R107). -/
theorem captureDue_iff (u : Capture) : u.due = true ↔ u.collection ≠ none ∨ u.single ≠ none ∨
    ∃ q, u.continuous = some q ∧ q.next ≤ 1 := by
  unfold Capture.due Capture.wants Capture.lower
  simp only [Bool.or_eq_true, Option.isSome_iff_ne_none, beq_iff_eq]
  refine or_congr_right (or_congr_right ?_)
  cases u.continuous with
  | none => simp
  | some q =>
    simp
    omega

theorem abandonDue_iff (l : Lane) : (l.assembly.isSome && !l.fed) = true ↔ l.assembly ≠ none ∧ l.fed = false := by
  rw [Bool.and_eq_true, Option.isSome_iff_ne_none, Bool.not_eq_true']

theorem boundary_opens : Claims.BoundaryOpens := by
  intro c u
  have due : u.due = _ := openBoundary_due c
  have channels : u.channels = _ := openBoundary_channels c
  refine ⟨openBoundary_frame c, fun i => ?_, fun g => ?_, ⟨?_, fun acts => ?_, fun idle => ?_⟩, ?_, fun i => ?_, ?_, ?_,
    fun i => ?_, fun ch other => ?_, fun f clipped on => ?_, channels, ?_, fun none_ => ?_⟩
  · rw [due, openBoundary_spokes]
    dsimp only [State.dueAtOpen]
    rw [mapTable_get, mapTable_get, mapTable_get]
    exact record_opens _
  · rw [openBoundary_load, openBoundary_groups, due]
    exact ⟨tabulate_get _ g, tabulate_get _ g⟩
  · rw [due]
    exact captureDue_iff c.capture
  · exact (openBoundary_capture c).trans (if_pos ((captureDue_iff _).mpr acts))
  · exact (openBoundary_capture c).trans (if_neg fun acts => idle ((captureDue_iff _).mp acts))
  · rw [due]
    exact abandonDue_iff c.lane
  · rw [due]
    exact mapTable_get _ _ i
  · rw [due]
    rfl
  · rw [due]
    rfl
  · rw [due]
    exact replicate_get true i
  · rw [channels]
    exact feedsRaised_other _ _ _ ch other
  · rw [channels]
    exact feedsRaised_mem _ _ _ f clipped on
  · rw [channels]
    exact feedsRaised_others _ _ _
  · rw [channels, feedsRaised_none _ _ _ none_]

/-! ## FRAME_BOUNDARY (R1) -/

theorem boundary_completes : Claims.BoundaryCompletes := by
  intro before s runs
  obtain ⟨frame, reference, _, ports, feeds, slots, settings, pointer, staging, pending⟩ := boundary_keeps_items s before
  have moved := boundary_moved s before
  have closed := closeBoundary_moved s
  refine ⟨s.boundary before, congrArg Host.Outcome.next (if_pos runs), rfl, frame,
    moved.fabric.trans (openBoundary_fabric _), fun i => ?_, fun i => ?_, reference, ports, feeds, slots, settings,
    pointer, staging, pending⟩
  · rw [moved.handed]
    exact openBoundary_handed _ i
  · rw [moved.meters, openBoundary_meters, closed.meters]
    rfl

/-- Settles O14. -/
theorem frameBoundaryAdvances : Obligations.FrameBoundaryAdvances := ⟨boundary_completes, boundary_opens, rest_evaluated⟩

end Sys2Proof.Machine
end

section
/-! SUPPORT. An empty queue: the boundary in hand runs out and a sample period passes (logs 2, 4, 5); the lines, the sums and
the energy in a sample period (R13 to R19). -/

namespace Sys2Proof.Machine

/-! ## The boundary in hand runs out (log 2) -/

theorem closeBoundary_over {s : State} (none_ : s.turnsLeft = false) : s.closeBoundary = s :=
  if_neg (by rw [none_]; decide)

theorem takeTurns_append (s : State) (a b : List Turn) : s.takeTurns (a ++ b) = (s.takeTurns a).takeTurns b :=
  List.foldl_append

/-- The state in which the boundary's turns are over and its store operation has ended, before the due turns are
cleared. -/
def State.turnsTaken (s : State) : State :=
  (s.lateReports.takeTurns (allSpokes.map .train ++ [.cutover] ++ allSpokes.map .settleEnd ++ allSpokes.map .poll ++
    (List.finRange 8).map .group ++ allSpokes.map .evaluate ++ [.captureEnd, .captureStart])).freeStoreEnd

theorem closeBoundary_left {s : State} (left : s.turnsLeft = true) : s.closeBoundary =
    { s.turnsTaken with
      due := .empty
      lane := { s.turnsTaken.lane with
        assembly := if s.turnsTaken.due.abandon then none else s.turnsTaken.lane.assembly } } := by
  have runs : s.closeBoundary = { s.turnsTaken.abandonTurn with due := .empty } := by
    unfold State.closeBoundary State.turnsTaken
    rw [if_pos left]
    simp only [takeTurns_append]
  rw [runs, abandonTurn_frame]

theorem idle_plain {s : State} (h : s.closeBoundary.arriving = []) : s.idle = s.closeBoundary := by
  unfold State.idle
  dsimp only
  rw [h]

theorem idle_passes {s : State} {p : SamplePeriod} {rest : List SamplePeriod} (h : s.closeBoundary.arriving = p :: rest) :
    s.idle = { s.closeBoundary with arriving := rest }.samplePeriod p := by
  unfold State.idle
  dsimp only
  rw [h]

theorem step_idle {s : State} (h : s.pending = []) : step s = .next s.idle := by
  unfold step
  rw [h]

theorem empty_queue_idles : Claims.EmptyQueueIdles := by
  intro s empty past none_
  have closed := closeBoundary_over past
  rw [step_idle empty, idle_plain (by rw [closed, none_]), closed]

theorem empty_queue_passes_samples : Claims.EmptyQueuePassesSamples := by
  intro s p rest empty past arrives
  have closed := closeBoundary_over past
  rw [step_idle empty, idle_passes (by rw [closed, arrives]), closed]

section StoreEnd

variable {u : State}

theorem freeStoreEnd_none (h : u.store.ends = false) : u.freeStoreEnd = u := if_neg (by rw [h]; decide)

theorem freeStoreEnd_plain (h : u.store.ends = true) (e : u.store.engine = .reading ∨ u.store.engine = .locking) :
    u.freeStoreEnd = u.storeTurn true := by
  unfold State.freeStoreEnd
  rw [if_pos h]
  rcases e with e | e <;> rw [e]

theorem freeStoreEnd_readBack (h : u.store.ends = true)
    (e : (∃ g, u.store.engine = .erasing g) ∨ ∃ r c, u.store.engine = .writing r c) :
    u.freeStoreEnd = { u with freeCount := u.freeCount + 1 }.storeTurn (Config.readBack u.freeCount) := by
  unfold State.freeStoreEnd
  rw [if_pos h]
  rcases e with ⟨g, e⟩ | ⟨r, c, e⟩ <;> rw [e]

end StoreEnd

theorem empty_queue_ends_boundary : Claims.EmptyQueueEndsBoundary := by
  intro s empty left late order past t
  have taken : past = s.turnsTaken := by
    unfold State.turnsTaken State.lateReports
    rfl
  clear_value past
  have closed : s.closeBoundary = t := by rw [closeBoundary_left left, ← taken]
  have arriving : t.arriving = s.arriving := closed ▸ (closeBoundary_moved s).arriving
  clear_value t
  refine ⟨fun none_ => ?_, fun p rest arrives => ?_, fun u => ⟨freeStoreEnd_none, freeStoreEnd_plain,
    freeStoreEnd_readBack⟩⟩
  · rw [step_idle empty, idle_plain (by rw [closed, arriving, none_]), closed]
  · rw [step_idle empty, idle_passes (by rw [closed, arriving, arrives]), closed]

/-! ## The lines (R13 to R15) -/

/-- A line without its old zero samples has the same output at every trim. -/
theorem trimZeros_getD (l : List Sample) (n : Nat) : (trimZeros l).getD n .zero = l.getD n .zero := by
  induction l generalizing n with
  | nil => rfl
  | cons x l ih =>
    have unfolds : trimZeros (x :: l) = if x = .zero ∧ trimZeros l = [] then [] else x :: trimZeros l := rfl
    rw [unfolds]
    split
    next h =>
      obtain ⟨zero, trimmed⟩ := h
      cases n with
      | zero => rw [zero]; rfl
      | succ n =>
        have := ih n
        rw [trimmed] at this
        exact this
    next =>
      cases n with
      | zero => rfl
      | succ n => exact ih n

theorem tap_pushSample (x : Sample) (l : List Sample) (n : Fin 256) :
    tap n (pushSample x l) = (x :: l).getD n.val .zero := by
  unfold tap pushSample
  rw [trimZeros_getD, List.getD_eq_getElem?_getD, List.getD_eq_getElem?_getD, List.getElem?_take_of_lt n.isLt]

theorem tap_pushSample_first (x : Sample) (l : List Sample) : tap 0 (pushSample x l) = x := tap_pushSample x l 0

theorem tap_pushSample_later (x : Sample) (l : List Sample) {m n : Fin 256} (h : n.val = m.val + 1) :
    tap n (pushSample x l) = tap m l := by
  rw [tap_pushSample, h]
  rfl

section Period

variable (s : State) (p : SamplePeriod) (i : SpokeId) (k : CellPos)

theorem samplePeriod_downLines : (s.samplePeriod p).fabric.downLines[i][k] = s.downLine p i k := by
  unfold State.samplePeriod
  rw [tabulate_get, tabulate_get]

theorem samplePeriod_upLines : (s.samplePeriod p).fabric.upLines[i][k] = s.upLine p i k := by
  unfold State.samplePeriod
  rw [tabulate_get, tabulate_get]

theorem samplePeriod_spokeOut :
    (s.samplePeriod p).fabric.spokeOut[i][k] = s.downOut (s.samplePeriod p).fabric.downLines[i][k] i k := by
  rw [samplePeriod_downLines]
  unfold State.samplePeriod
  rw [tabulate_get, tabulate_get, tabulate_get, tabulate_get]

/-- The uplink line takes one sample, with a cell in the sum set or without (R15). -/
theorem upLine_push : s.upLine p i k =
    pushSample (if s.fabric.sum[i][k] = none then .zero else s.received p i k) s.fabric.upLines[i][k] := by
  unfold State.upLine
  cases h : s.fabric.sum[i][k] <;> simp

theorem feedRuns_iff (f : FeedId) :
    s.feedRuns f = true ↔ s.fabric.feedState[f] = .active ∧ s.ports[portOf f] = true := by
  unfold State.feedRuns
  rw [Bool.and_eq_true, beq_iff_eq]

variable {i k}

theorem downLine_cell {c : Cell} (h : s.fabric.carry[i][k] = some c) : s.downLine p i k =
    pushSample (if s.feedRuns c.feed then (p.feeds.lookup c.feed).getD ⟨0, 0⟩ else ⟨0, 0⟩) s.fabric.downLines[i][k] := by
  unfold State.downLine
  rw [h]
  rfl

theorem downOut_cell {c : Cell} (line : List Sample) (h : s.fabric.carry[i][k] = some c) : s.downOut line i k =
    if s.feedRuns c.feed then attenuate c.down (tap c.trim line) else ⟨0, 0⟩ := by
  unfold State.downOut
  rw [h]
  rfl

theorem downOut_empty (line : List Sample) (h : s.fabric.carry[i][k] = none) : s.downOut line i k = ⟨0, 0⟩ := by
  unfold State.downOut
  rw [h]
  rfl

end Period

theorem lines_take_samples : Claims.LinesTakeSamples := by
  intro s p i k t runs
  have down : t.downLines[i][k] = s.downLine p i k := samplePeriod_downLines s p i k
  have up : t.upLines[i][k] = s.upLine p i k := samplePeriod_upLines s p i k
  have out : t.spokeOut[i][k] = s.downOut t.downLines[i][k] i k := samplePeriod_spokeOut s p i k
  rw [up, upLine_push, out]
  clear_value t
  refine ⟨fun c cell => ⟨fun on => ?_, fun off => ?_, fun m n next => ?_⟩, downOut_empty s _, fun some_ => ?_,
    fun none_ => ?_, fun m n next => tap_pushSample_later _ _ next, received_locked p k, received_nothing p k⟩
  · have on : s.feedRuns c.feed = true := (feedRuns_iff s c.feed).mpr on
    rw [downOut_cell s _ cell, if_pos on, down, downLine_cell s p cell, if_pos on, tap_pushSample_first]
    exact ⟨rfl, rfl⟩
  · have off : ¬ s.feedRuns c.feed = true := fun on => off ((feedRuns_iff s c.feed).mp on)
    rw [downOut_cell s _ cell, if_neg off, down, downLine_cell s p cell, if_neg off, tap_pushSample_first]
    exact ⟨rfl, rfl⟩
  · rw [down, downLine_cell s p cell]
    exact tap_pushSample_later _ _ next
  · rw [tap_pushSample_first, if_neg some_]
  · rw [tap_pushSample_first, if_pos none_]
    rfl

/-! ## Attenuation (R14) -/

/-- The lower half-step of a magnitude does not exceed the attenuated one, both sides raised to the 40th power. -/
def Reaches (a x c : Nat) : Prop := (2 * c - 1) ^ 40 * 10 ^ a ≤ (2 * x) ^ 40

/-- The search by bits keeps a magnitude that is reached, below one that is not. -/
theorem attenuateMagnitude_spec (a x b acc : Nat) (low : acc ≠ 0 → Reaches a x acc)
    (high : ¬ Reaches a x (acc + 2 ^ b)) :
    (attenuateMagnitude a x b acc ≠ 0 → Reaches a x (attenuateMagnitude a x b acc)) ∧
      ¬ Reaches a x (attenuateMagnitude a x b acc + 1) := by
  induction b generalizing acc with
  | zero =>
    rw [Nat.pow_zero] at high
    exact ⟨low, high⟩
  | succ b ih =>
    rw [attenuateMagnitude]
    split
    next reached =>
      refine ih _ (fun _ => reached) ?_
      rwa [Nat.add_assoc, ← Nat.two_mul, Nat.mul_comm, ← Nat.pow_succ]
    next missed => exact ih acc low missed

/-- No magnitude of seventeen bits is reached from a sample component. -/
theorem not_reaches_top {a x : Nat} (h : x ≤ 32767) : ¬ Reaches a x (0 + 2 ^ 16) := by
  unfold Reaches
  rw [Nat.not_le]
  calc (2 * x) ^ 40 < (2 * (0 + 2 ^ 16) - 1) ^ 40 := Nat.pow_lt_pow_left (by omega) (by decide)
    _ ≤ (2 * (0 + 2 ^ 16) - 1) ^ 40 * 10 ^ a := Nat.le_mul_of_pos_right _ (Nat.pow_pos (by decide))

theorem attenuateComponent_negative (a : Fin 64) {z : Int} (h : z < 0) :
    attenuateComponent a z = -(attenuateMagnitude a.val z.natAbs 16 0 : Nat) := if_pos h

theorem attenuateComponent_positive (a : Fin 64) {z : Int} (h : ¬ z < 0) :
    attenuateComponent a z = (attenuateMagnitude a.val z.natAbs 16 0 : Nat) := if_neg h

theorem attenuateComponent_natAbs (a : Fin 64) (z : Int) :
    (attenuateComponent a z).natAbs = attenuateMagnitude a.val z.natAbs 16 0 := by
  by_cases h : z < 0
  · rw [attenuateComponent_negative a h, Int.natAbs_neg, Int.natAbs_natCast]
  · rw [attenuateComponent_positive a h, Int.natAbs_natCast]

theorem attenuateMagnitude_zero (a : Nat) : attenuateMagnitude a 0 16 0 = 0 := by
  obtain ⟨low, _⟩ := attenuateMagnitude_spec a 0 16 0 (fun h => absurd rfl h) (not_reaches_top (by decide))
  by_contra reached
  have small : ∀ m, m ≠ 0 → ¬ Reaches a 0 m := by
    intro m hm
    unfold Reaches
    rw [Nat.not_le]
    exact Nat.mul_pos (Nat.pow_pos (by omega)) (Nat.pow_pos (by decide))
  exact small _ reached (low reached)

theorem attenuation_rounds : Claims.AttenuationRounds := by
  refine fun a x => ⟨rfl, ?_⟩
  intro z bounded m
  have magnitude : m = attenuateMagnitude a.val z.natAbs 16 0 := attenuateComponent_natAbs a z
  obtain ⟨low, high⟩ := attenuateMagnitude_spec a.val z.natAbs 16 0 (fun h => absurd rfl h) (not_reaches_top bounded)
  rw [← magnitude] at low high
  refine ⟨low, Nat.lt_of_not_le high, fun up => ?_, fun down => ?_⟩
  · rw [attenuateComponent_positive a (by omega)]
    exact Int.natCast_nonneg _
  · rcases Int.lt_or_eq_of_le down with negative | rfl
    · rw [attenuateComponent_negative a negative]
      omega
    · rw [attenuateComponent_positive a (by decide), Int.natAbs_zero, attenuateMagnitude_zero]
      decide

/-! ## The sums (R15 to R17) -/

theorem foldl_add_components (l : List Sample) (a : Sample) :
    (l.foldl Sample.add a).i = a.i + (l.map (·.i)).sum ∧ (l.foldl Sample.add a).q = a.q + (l.map (·.q)).sum := by
  induction l generalizing a with
  | nil => simp
  | cons x l ih =>
    obtain ⟨i, q⟩ := ih (a.add x)
    simp only [List.foldl_cons, List.map_cons, List.sum_cons]
    exact ⟨i.trans (Int.add_assoc _ _ _), q.trans (Int.add_assoc _ _ _)⟩

/-- The contributions to a feed's sum, position by position. -/
def State.contributions (s : State) (lines : Lines) (f : FeedId) : List Sample :=
  allSpokes.flatMap fun i => allPositions.map fun k => s.contribution lines f i k

theorem exactSum_eq (s : State) (lines : Lines) (f : FeedId) : s.exactSum lines f =
    ⟨((s.contributions lines f).map (·.i)).sum, ((s.contributions lines f).map (·.q)).sum⟩ := by
  have folds : s.exactSum lines f = (s.contributions lines f).foldl Sample.add .zero := by
    unfold State.exactSum State.contributions
    rw [List.foldl_flatMap]
    simp only [List.foldl_map]
  obtain ⟨i, q⟩ := foldl_add_components (s.contributions lines f) .zero
  have zero_i : Sample.zero.i = 0 := rfl
  have zero_q : Sample.zero.q = 0 := rfl
  rw [zero_i, Int.zero_add] at i
  rw [zero_q, Int.zero_add] at q
  rw [folds, ← i, ← q]

theorem samplePeriod_feedOut (s : State) (p : SamplePeriod) (f : FeedId) : (s.samplePeriod p).fabric.feedOut[f] =
    if s.feedRuns f then (s.exactSum (s.samplePeriod p).fabric.upLines f).clip else .zero := by
  refine (tabulate_get _ f).trans ?_
  rw [tabulate_get]
  rfl

theorem samplePeriod_saturated (s : State) (p : SamplePeriod) (f : FeedId) : (s.samplePeriod p).fabric.saturated[f] =
    (s.fabric.saturated[f] || (s.fabric.feedState[f] == .active &&
      (s.exactSum (s.samplePeriod p).fabric.upLines f).clip != s.exactSum (s.samplePeriod p).fabric.upLines f)) := by
  refine (tabulate_get _ f).trans ?_
  rw [tabulate_get]
  rfl

theorem clip_ne_iff (x y : Int) : Sample.clip ⟨x, y⟩ ≠ ⟨x, y⟩ ↔ x < -32767 ∨ 32767 < x ∨ y < -32767 ∨ 32767 < y := by
  unfold Sample.clip clipComponent
  rw [ne_eq, Sample.mk.injEq]
  dsimp only
  omega

theorem sums_saturate : Claims.SumsSaturate := by
  intro s p f t parts x y
  have named : parts = s.contributions t.upLines f := by
    refine congrArg (allSpokes.flatMap ·) (funext fun i => congrArg (allPositions.map ·) (funext fun k => ?_))
    unfold State.contribution
    cases s.fabric.sum[i][k] <;> rfl
  have sum : s.exactSum t.upLines f = ⟨x, y⟩ := by
    rw [exactSum_eq, ← named]
  have out : t.feedOut[f] = if s.feedRuns f then (s.exactSum t.upLines f).clip else .zero := samplePeriod_feedOut s p f
  have saturated : t.saturated[f] = (s.fabric.saturated[f] || (s.fabric.feedState[f] == .active &&
      (s.exactSum t.upLines f).clip != s.exactSum t.upLines f)) := samplePeriod_saturated s p f
  rw [sum] at out saturated
  refine ⟨fun active up => out.trans (if_pos ((feedRuns_iff s f).mpr ⟨active, up⟩)), fun stopped => out.trans (if_neg ?_), ?_⟩
  · rw [feedRuns_iff]
    rintro ⟨active, up⟩
    rcases stopped with stopped | stopped
    · exact stopped active
    · rw [stopped] at up
      cases up
  · rw [saturated, Bool.or_eq_true, Bool.and_eq_true, beq_iff_eq, bne_iff_ne, clip_ne_iff]

/-! ## The energy (R19) -/

theorem foldl_add_powers (f : CellPos → Sample) (l : List CellPos) (n : Nat) :
    l.foldl (fun a k => a + (f k).power) n = n + (l.map fun k => (f k).i.natAbs ^ 2 + (f k).q.natAbs ^ 2).sum := by
  induction l generalizing n with
  | nil => rfl
  | cons k l ih =>
    rw [List.foldl_cons, ih, List.map_cons, List.sum_cons, ← Nat.add_assoc]
    rfl

theorem samplePeriod_energySum (s : State) (p : SamplePeriod) (i : SpokeId) :
    (s.samplePeriod p).fabric.energySum[i] = s.fabric.energySum[i] + (allPositions.map fun k =>
      (s.received p i k).i.natAbs ^ 2 + (s.received p i k).q.natAbs ^ 2).sum :=
  (tabulate_get _ i).trans (foldl_add_powers (s.received p i) allPositions _)

theorem energy_measured : Claims.EnergyMeasured := by
  refine fun s p => ⟨rfl, rfl, rfl, rfl, rfl, rfl, fun i => ⟨mapTable_get _ _ i, samplePeriod_energySum s p i⟩,
    fun i => ⟨fun opened locked => if_pos (by rw [opened, locked]; rfl), fun unlocked => if_neg ?_⟩⟩
  rw [Bool.and_eq_true]
  rintro ⟨opened, locked⟩
  rcases unlocked with h | h
  · rw [h] at opened
    cases opened
  · rw [h] at locked
    cases locked

/-- Settles O39. -/
theorem emptyQueue : Obligations.EmptyQueue :=
  ⟨empty_queue_idles, empty_queue_passes_samples, empty_queue_ends_boundary, lines_take_samples, attenuation_rounds,
    sums_saturate, energy_measured⟩

end Sys2Proof.Machine
end
